-- ==== Sys2Proof/Word.lean ====
section
/-! DEFINITION. The widths of the SFCU's words: a byte of buffer memory, a 64-bit register, a 32-bit coordinate
register, a 32-bit command word, a 4-bit operand-register index and a 12-bit register number. -/

namespace Sys2Proof

/-- A byte of the buffer memory `MEM` (20_memory.md R60). -/
abbrev Byte := BitVec 8

/-- A 64-bit register: an operand register (10_state.md R22, `DW` = 64) or any register of the host's register
space (R25). -/
abbrev Word := BitVec 64

/-- A 32-bit coordinate register (10_state.md R23, `CW` = 32). -/
abbrev CoordWord := BitVec 32

/-- A command word (30_encoding.md R90). -/
abbrev CmdWord := BitVec 32

/-- The index of an operand register in a command word (30_encoding.md R94). -/
abbrev RegIx := BitVec 4

/-- A register number of the host's register space (10_state.md R25). -/
abbrev RegNum := BitVec 12

end Sys2Proof
end

