-- ==== Sys2Proof/Syntax.lean ====
section
/-! DEFINITION. The abstract syntax: the 25 commands of 30_encoding.md R93 and the six host operations of
40_system.md R120. -/

namespace Sys2Proof

/-- A curve slot (10_state.md R31): `s0` is `CURVE0`, `s1` is `CURVE1`. -/
inductive SlotId where
  | s0
  | s1
  deriving DecidableEq, Repr

/-- A command (30_encoding.md R93), one constructor per row of the opcode table. Operands stand in the order of the
listing syntax of R113. -/
inductive Instr where
  /-- `NOP` (R123). -/
  | nop
  /-- `CLRERR` (R124). -/
  | clrerr
  /-- `CSETUP s<slot>, <TYPE>, r<rs1>, r<rs2>` (R141). All eight values of the type field decode (R97). -/
  | csetup (slot : SlotId) (type : BitVec 3) (rs1 rs2 : RegIx)
  /-- `CCLONE s<dst>, s<src>` (R148). -/
  | cclone (dst src : SlotId)
  /-- `ISETUP r<rs1>, r<rs2>` (R183). -/
  | isetup (rs1 rs2 : RegIx)
  /-- `EXPAND r<rd>, r<rs1>, <dim>` (R185). -/
  | expand (rd rs1 : RegIx) (dim : BitVec 8)
  /-- `REMOVE r<rd>, r<rs1>, <dim>` (R187). -/
  | remove (rd rs1 : RegIx) (dim : BitVec 8)
  /-- `C2D r<rd>, s<slot>` (R150). -/
  | c2d (rd : RegIx) (slot : SlotId)
  /-- `D2C r<rs1>, s<slot>` (R151). -/
  | d2c (rs1 : RegIx) (slot : SlotId)
  /-- `REORDI s<from>, s<to>` (R203). -/
  | reordi (src dst : SlotId)
  /-- `REORDT s<from>, s<to>` (R206). -/
  | reordt (src dst : SlotId)
  /-- `BWTF` (R226). -/
  | bwtf
  /-- `BWTI` (R229). -/
  | bwti
  /-- `MTFE` (R243). -/
  | mtfe
  /-- `MTFD` (R246). -/
  | mtfd
  /-- `HUFE` (R290). -/
  | hufe
  /-- `HUFD` (R294). -/
  | hufd
  /-- `LZWE` (R315). -/
  | lzwe
  /-- `LZWD` (R318). -/
  | lzwd
  /-- `RLEE` (R327). -/
  | rlee
  /-- `RLED` (R329). -/
  | rled
  /-- `HDRP` (R344). -/
  | hdrp
  /-- `HDRU` (R346). -/
  | hdru
  /-- `BLKC [BWT] [MTF] [codec]` (R357); the codec field must be 0, 1, 2 or 5 (R95, WellFormed.lean). -/
  | blkc (bwt mtf : Bool) (codec : BitVec 3)
  /-- `BLKD [BWT] [MTF] [codec]` (R360); the codec field must be 0, 1, 2 or 5 (R95, WellFormed.lean). -/
  | blkd (bwt mtf : Bool) (codec : BitVec 3)
  deriving DecidableEq, Repr

/-- The size of a host memory access: 1, 2, 4 or 8 bytes (20_memory.md R62). -/
inductive AccessSize where
  | one
  | two
  | four
  | eight
  deriving DecidableEq, Repr

/-- A host operation (40_system.md R120). A program is a list of them (00_scope.md R15, R120). -/
inductive HostOp where
  /-- `HostWriteReg(n, v)`. -/
  | writeReg (n : RegNum) (v : Word)
  /-- `HostReadReg(n)`. -/
  | readReg (n : RegNum)
  /-- `HostWriteMem(a, n, v)`; the low `n` bytes of `v` are the bytes written (R62). -/
  | writeMem (a : Nat) (n : AccessSize) (v : Word)
  /-- `HostReadMem(a, n)`. -/
  | readMem (a : Nat) (n : AccessSize)
  /-- `HostIssue(w)`, the same as `HostWriteReg(0x100, w)`. -/
  | issue (w : CmdWord)
  /-- `HostReset` (70_reset_and_hazards.md R420). -/
  | reset
  deriving DecidableEq, Repr

end Sys2Proof
end

