-- ==== Sys2Proof/WellFormed.lean ====
section
/-! DEFINITION. Which commands of the abstract syntax have a legal word (30_encoding.md R95, R96): every one but a
`BLKC` or `BLKD` whose codec field is reserved. Register indices, slots, flags and the dimension index are legal at
every value of their types. -/

namespace Sys2Proof

/-- The legal values of the codec field (30_encoding.md R95): 0 none, 1 RLE, 2 HUFFMAN, 5 LZW. -/
def codecLegal (codec : BitVec 3) : Bool :=
  codec == 0 || codec == 1 || codec == 2 || codec == 5

/-- A command with a legal word (30_encoding.md R96). -/
def Instr.wellFormed : Instr → Bool
  | .nop => true
  | .clrerr => true
  | .csetup _ _ _ _ => true
  | .cclone _ _ => true
  | .isetup _ _ => true
  | .expand _ _ _ => true
  | .remove _ _ _ => true
  | .c2d _ _ => true
  | .d2c _ _ => true
  | .reordi _ _ => true
  | .reordt _ _ => true
  | .bwtf => true
  | .bwti => true
  | .mtfe => true
  | .mtfd => true
  | .hufe => true
  | .hufd => true
  | .lzwe => true
  | .lzwd => true
  | .rlee => true
  | .rled => true
  | .hdrp => true
  | .hdru => true
  | .blkc _ _ codec => codecLegal codec
  | .blkd _ _ codec => codecLegal codec

end Sys2Proof
end

