-- ==== Sys2Proof/Decode.lean ====
section
/-! DEFINITION. Decoding a command word (30_encoding.md R91 to R97), total and rejecting by name, and the encoder. -/

namespace Sys2Proof

/-- Why a word is illegal (30_encoding.md R96). All of them raise the one fault `E_CMD` (R384). -/
inductive DecodeError where
  /-- The opcode is not in the table of R93. -/
  | unknownOpcode
  /-- Bits 31:28 are not 0. -/
  | reservedTop
  /-- A field the command does not use is not 0. -/
  | unusedField
  /-- A part of `imm8` the table marks `= 0` is not 0. -/
  | reservedImm
  /-- The codec field of `BLKC` or `BLKD` holds 3, 4, 6 or 7. -/
  | reservedCodec
  deriving DecidableEq, Repr

/-- `opc`, bits 7:0 (R91). -/
def fieldOpc (w : CmdWord) : BitVec 8 := w.extractLsb' 0 8

/-- `rd`, bits 11:8 (R91). -/
def fieldRd (w : CmdWord) : RegIx := w.extractLsb' 8 4

/-- `rs1`, bits 15:12 (R91). -/
def fieldRs1 (w : CmdWord) : RegIx := w.extractLsb' 12 4

/-- `rs2`, bits 19:16 (R91). -/
def fieldRs2 (w : CmdWord) : RegIx := w.extractLsb' 16 4

/-- `imm8`, bits 27:20 (R91). -/
def fieldImm8 (w : CmdWord) : BitVec 8 := w.extractLsb' 20 8

/-- Bits 31:28, reserved (R91). -/
def fieldTop (w : CmdWord) : BitVec 4 := w.extractLsb' 28 4

/-- A one-bit slot field (R93). -/
def slotOfBit (b : BitVec 1) : SlotId := if b = 0 then .s0 else .s1

/-- The one-bit field of a slot (R93). -/
def bitOfSlot : SlotId → BitVec 1
  | .s0 => 0
  | .s1 => 1

/-- A command that uses no field at all (R93). -/
def decodePlain (i : Instr) (w : CmdWord) : Except DecodeError Instr :=
  if fieldRd w = 0 ∧ fieldRs1 w = 0 ∧ fieldRs2 w = 0 ∧ fieldImm8 w = 0 then .ok i else .error .unusedField

/-- A command that uses two slot bits of `imm8` and nothing else: `imm8[0]`, `imm8[1]`, `imm8[7:2] = 0` (R93). -/
def decodeTwoSlots (mk : SlotId → SlotId → Instr) (w : CmdWord) : Except DecodeError Instr :=
  if ¬ (fieldRd w = 0 ∧ fieldRs1 w = 0 ∧ fieldRs2 w = 0) then .error .unusedField
  else if (fieldImm8 w).extractLsb' 2 6 ≠ 0 then .error .reservedImm
  else .ok (mk (slotOfBit ((fieldImm8 w).extractLsb' 0 1)) (slotOfBit ((fieldImm8 w).extractLsb' 1 1)))

/-- `BLKC` and `BLKD`: `imm8[0]` BWT, `imm8[1]` MTF, `imm8[4:2]` codec, `imm8[7:5] = 0` (R93, R95). -/
def decodeBlock (mk : Bool → Bool → BitVec 3 → Instr) (w : CmdWord) : Except DecodeError Instr :=
  if ¬ (fieldRd w = 0 ∧ fieldRs1 w = 0 ∧ fieldRs2 w = 0) then .error .unusedField
  else if (fieldImm8 w).extractLsb' 5 3 ≠ 0 then .error .reservedImm
  else if codecLegal ((fieldImm8 w).extractLsb' 2 3) = false then .error .reservedCodec
  else .ok (mk ((fieldImm8 w).getLsbD 0) ((fieldImm8 w).getLsbD 1) ((fieldImm8 w).extractLsb' 2 3))

/-- Decode a word whose reserved bits 31:28 are 0, by its opcode (R93). -/
def decodeRow (w : CmdWord) : Except DecodeError Instr :=
  match fieldOpc w with
  | 0x00#8 => decodePlain .nop w
  | 0x01#8 => decodePlain .clrerr w
  | 0x10#8 =>
    if fieldRd w ≠ 0 then .error .unusedField
    else if (fieldImm8 w).extractLsb' 4 4 ≠ 0 then .error .reservedImm
    else .ok (.csetup (slotOfBit ((fieldImm8 w).extractLsb' 0 1)) ((fieldImm8 w).extractLsb' 1 3)
      (fieldRs1 w) (fieldRs2 w))
  | 0x11#8 => decodeTwoSlots .cclone w
  | 0x12#8 =>
    if ¬ (fieldRd w = 0 ∧ fieldImm8 w = 0) then .error .unusedField
    else .ok (.isetup (fieldRs1 w) (fieldRs2 w))
  | 0x20#8 =>
    if fieldRs2 w ≠ 0 then .error .unusedField
    else .ok (.expand (fieldRd w) (fieldRs1 w) (fieldImm8 w))
  | 0x21#8 =>
    if fieldRs2 w ≠ 0 then .error .unusedField
    else .ok (.remove (fieldRd w) (fieldRs1 w) (fieldImm8 w))
  | 0x22#8 =>
    if ¬ (fieldRs1 w = 0 ∧ fieldRs2 w = 0) then .error .unusedField
    else if (fieldImm8 w).extractLsb' 1 7 ≠ 0 then .error .reservedImm
    else .ok (.c2d (fieldRd w) (slotOfBit ((fieldImm8 w).extractLsb' 0 1)))
  | 0x23#8 =>
    if ¬ (fieldRd w = 0 ∧ fieldRs2 w = 0) then .error .unusedField
    else if (fieldImm8 w).extractLsb' 1 7 ≠ 0 then .error .reservedImm
    else .ok (.d2c (fieldRs1 w) (slotOfBit ((fieldImm8 w).extractLsb' 0 1)))
  | 0x30#8 => decodeTwoSlots .reordi w
  | 0x31#8 => decodeTwoSlots .reordt w
  | 0x40#8 => decodePlain .bwtf w
  | 0x41#8 => decodePlain .bwti w
  | 0x42#8 => decodePlain .mtfe w
  | 0x43#8 => decodePlain .mtfd w
  | 0x50#8 => decodePlain .hufe w
  | 0x51#8 => decodePlain .hufd w
  | 0x52#8 => decodePlain .lzwe w
  | 0x53#8 => decodePlain .lzwd w
  | 0x54#8 => decodePlain .rlee w
  | 0x55#8 => decodePlain .rled w
  | 0x60#8 => decodePlain .hdrp w
  | 0x61#8 => decodePlain .hdru w
  | 0x62#8 => decodeBlock .blkc w
  | 0x63#8 => decodeBlock .blkd w
  | _ => .error .unknownOpcode

/-- Decode a command word. Every one of the 2^32 words is a legal form or illegal (R96), and which is decided from
the word alone (R97). -/
def decode (w : CmdWord) : Except DecodeError Instr :=
  if fieldTop w ≠ 0 then .error .reservedTop else decodeRow w

/-- `word = opc OR (rd << 8) OR (rs1 << 12) OR (rs2 << 16) OR (imm8 << 20)` (R91), bits 31:28 zero. -/
def pack (opc : BitVec 8) (rd rs1 rs2 : RegIx) (imm8 : BitVec 8) : CmdWord :=
  (0#4 ++ imm8 ++ rs2 ++ rs1 ++ rd ++ opc : BitVec (4 + 8 + 4 + 4 + 4 + 8))

/-- `imm8` of two slot bits (R93). -/
def immTwoSlots (bit0 bit1 : SlotId) : BitVec 8 :=
  (0#6 ++ bitOfSlot bit1 ++ bitOfSlot bit0 : BitVec (6 + 1 + 1))

/-- `imm8` of one slot bit (R93). -/
def immSlot (bit0 : SlotId) : BitVec 8 :=
  (0#7 ++ bitOfSlot bit0 : BitVec (7 + 1))

/-- `imm8` of `BLKC` and `BLKD` (R93). -/
def immBlock (bwt mtf : Bool) (codec : BitVec 3) : BitVec 8 :=
  (0#3 ++ codec ++ BitVec.ofBool mtf ++ BitVec.ofBool bwt : BitVec (3 + 3 + 1 + 1))

/-- The command word of a command (R91, R93). -/
def encode : Instr → CmdWord
  | .nop => pack 0x00 0 0 0 0
  | .clrerr => pack 0x01 0 0 0 0
  | .csetup slot type rs1 rs2 =>
    pack 0x10 0 rs1 rs2 (0#4 ++ type ++ bitOfSlot slot : BitVec (4 + 3 + 1))
  | .cclone dst src => pack 0x11 0 0 0 (immTwoSlots dst src)
  | .isetup rs1 rs2 => pack 0x12 0 rs1 rs2 0
  | .expand rd rs1 dim => pack 0x20 rd rs1 0 dim
  | .remove rd rs1 dim => pack 0x21 rd rs1 0 dim
  | .c2d rd slot => pack 0x22 rd 0 0 (immSlot slot)
  | .d2c rs1 slot => pack 0x23 0 rs1 0 (immSlot slot)
  | .reordi src dst => pack 0x30 0 0 0 (immTwoSlots src dst)
  | .reordt src dst => pack 0x31 0 0 0 (immTwoSlots src dst)
  | .bwtf => pack 0x40 0 0 0 0
  | .bwti => pack 0x41 0 0 0 0
  | .mtfe => pack 0x42 0 0 0 0
  | .mtfd => pack 0x43 0 0 0 0
  | .hufe => pack 0x50 0 0 0 0
  | .hufd => pack 0x51 0 0 0 0
  | .lzwe => pack 0x52 0 0 0 0
  | .lzwd => pack 0x53 0 0 0 0
  | .rlee => pack 0x54 0 0 0 0
  | .rled => pack 0x55 0 0 0 0
  | .hdrp => pack 0x60 0 0 0 0
  | .hdru => pack 0x61 0 0 0 0
  | .blkc bwt mtf codec => pack 0x62 0 0 0 (immBlock bwt mtf codec)
  | .blkd bwt mtf codec => pack 0x63 0 0 0 (immBlock bwt mtf codec)

/-- The command word whose low `nbits` bits are `w` and whose other bits are 0. -/
def tableWord (nbits w : Nat) : CmdWord := BitVec.ofNat 32 (w % 2 ^ nbits)

/-- What the decoder reads from the word `tableWord nbits w`; none where it refuses. A command is one register write of
32 bits (R90), so no byte order comes in. -/
def decodeTableWord (nbits w : Nat) : Option Instr :=
  match decode (tableWord nbits w) with
  | .ok i => some i
  | .error _ => none

end Sys2Proof
end

