-- ==== Sys2Proof/Config.lean ====
section
/-! DEFINITION. The parameters of an SFCU (00_scope.md R10, 93_implementation_defined.md U21) and the free values
(U1, U2). -/

namespace Sys2Proof

/-- The parameters of one instance that a model takes as arguments (00_scope.md R10): `MEMSZ`, `MAXELEMS`, `MTF_AMAX`
and `HUF_MAXLEN`. State holds one `Config`, so a statement about every state is a statement about every instance
(DESIGN CHOICE: notes/assumptions/4.md). -/
structure Config where
  /-- `MEMSZ`: size in bytes of the buffer memory. -/
  memSz : Nat
  /-- `MAXELEMS`: largest `LEN` a bulk command accepts. -/
  maxElems : Nat
  /-- `MTF_AMAX`: largest MTF alphabet size. -/
  mtfAmax : Nat
  /-- `HUF_MAXLEN`: largest Huffman code length in bits. -/
  hufMaxlen : Nat
  deriving DecidableEq, Repr

/-- The values a parameter may take: `1 <= MEMSZ <= 2^DW - 1` (R10); an MTF alphabet has at least one value (45_mtf.md
R241); and a Huffman code is one run of the bit stream, whose runs have at most 32 bits (46_bitstream.md R263, R266).
DEDUCED for `MTF_AMAX` and `HUF_MAXLEN`: notes/assumptions/4.md. -/
abbrev Config.wf (k : Config) : Prop :=
  1 ≤ k.memSz ∧ k.memSz ≤ 2 ^ 64 - 1 ∧ 1 ≤ k.mtfAmax ∧ 1 ≤ k.hufMaxlen ∧ k.hufMaxlen ≤ 32

/-- The instance that `State.reset` describes: R10's defaults (`MAXELEMS` = `MEMSZ`, `MTF_AMAX` = 65536, `HUF_MAXLEN` =
32) and a buffer memory of 16777216 bytes (DESIGN CHOICE, R10 gives `MEMSZ` no default: notes/assumptions/4.md). -/
def Config.standard : Config :=
  { memSz := 16777216, maxElems := 16777216, mtfAmax := 65536, hufMaxlen := 32 }

/-- `DW`: width in bits of a distance word (00_scope.md R10, at its default: notes/assumptions/3.md). -/
abbrev Config.dw : Nat := 64

/-- `CW`: width in bits of a coordinate word (R10, default). -/
abbrev Config.cw : Nat := 32

/-- `NMAX`: largest dimension count (R10, default). -/
abbrev Config.nMax : Nat := 64

/-- `LZW_CAP`: the LZW dictionary cap, fixed (R10). -/
abbrev Config.lzwCap : Nat := 4096

/-- The free value of a byte of `MEM` whose content the spec leaves open (U1, U2): `freeByte k a` is what address `a`
holds from the `k`-th draw on, draw 0 being power-on. It has no body, so nothing can be proved of its value
(notes/assumptions/5.md and 6.md). -/
opaque Config.freeByte : Nat → Nat → Byte

end Sys2Proof
end

