-- ==== Sys2Proof/Machine/State.lean ====
section
/-! DEFINITION. The state of the SFCU (10_state.md), as plain data, the reasons a step can stop, and the state after
reset (R44). -/

namespace Sys2Proof.Machine

/-- Why the machine stops without a next state. The SFCU itself never does (93_implementation_defined.md U22: every
error of a command is recorded in `STATUS.ERR`, `ERRCODE` and `ERRINFO`, which is a next state). -/
inductive Fault where
  /-- Raised by `step` alone, at a state whose `BUSY` is 1, for a host operation other than a read of `STATUS`: 10_state.md
  R21 holds it off until the command in progress completes, and a state of this model holds no command in progress. No
  step ends in such a state (notes/assumptions/2.md). Safe: nothing is claimed of what follows. -/
  | heldOff
  deriving DecidableEq, Repr

/-- Why a step refuses. -/
inductive Refusal where
  /-- Raised by `exec` for a command that has no meaning yet; every command has one, so no arm raises it. Safe. -/
  | notModelled (mnemonic : String)
  deriving DecidableEq, Repr

/-- The curve variants that a constructed slot may hold (41_curve.md R143). -/
inductive CurveType where
  /-- `ROW_MAJOR` = 0 (30_encoding.md R110). -/
  | rowMajor
  /-- `MORTON` = 2. -/
  | morton
  /-- `GRAY_CODE` = 3. -/
  | gray
  /-- `HILBERT` = 4. -/
  | hilbert
  deriving DecidableEq, Repr

/-- The interleaver configuration register `ICFG` (10_state.md R30); its reserved bits read as 0 and hold nothing. -/
structure Icfg where
  /-- `VALID`, bit 0. -/
  valid : Bool
  /-- `N`, bits 15:8. -/
  n : BitVec 8
  /-- `B`, bits 23:16. -/
  b : BitVec 8
  deriving DecidableEq, Repr

/-- A curve slot register, `CURVE0` or `CURVE1` (10_state.md R31); its reserved bits read as 0 and hold nothing. -/
structure CurveSlot where
  /-- `VALID`, bit 0. -/
  valid : Bool
  /-- `TYPE`, bits 3:1. -/
  type : CurveType
  /-- `N`, bits 15:8. -/
  n : BitVec 8
  /-- `L`, bits 55:16. -/
  l : BitVec 40
  deriving DecidableEq, Repr

/-- The fault conditions a command can raise (60_exceptions.md R385), in the order of their codes. -/
inductive ErrCode where
  /-- Code 1, an illegal command word (R384). -/
  | eCmd
  /-- Code 2, an illegal extent. -/
  | eExtent
  /-- Code 3, an illegal dimension count. -/
  | eNdims
  /-- Code 4, `L^N` does not fit the distance word. -/
  | eTotalOverflow
  /-- Code 5, interleave bit-width overflow. -/
  | eIlvWidth
  /-- Code 6, an unsupported curve type. -/
  | eCurveType
  /-- Code 7, a slot or `ICFG` that is not valid. -/
  | eNotConstructed
  /-- Code 8, a coordinate outside the curve. -/
  | eCoordRange
  /-- Code 9, a distance outside the curve. -/
  | eDistRange
  /-- Code 10, a dimension index outside `ICFG.N`. -/
  | eDimIndex
  /-- Code 11, two slots that differ in `N` or `L`. -/
  | eReordMismatch
  /-- Code 12, `LEN` is not `L^N`. -/
  | eReordLen
  /-- Code 13, a reorder target outside the region. -/
  | eReordTarget
  /-- Code 14, `EW` is not 1, 2 or 4. -/
  | eEw
  /-- Code 15, a region runs past `MEMSZ`. -/
  | eMemRange
  /-- Code 16, input and output regions share a byte. -/
  | eMemOverlap
  /-- Code 17, the result is longer than `CAP`. -/
  | eCap
  /-- Code 18, a length above a bound of the unit. -/
  | eResource
  /-- Code 19, an illegal MTF alphabet. -/
  | eMtfAlphabet
  /-- Code 20, an MTF rank outside the alphabet. -/
  | eMtfRank
  /-- Code 21, an impossible BWT primary index. -/
  | eBwtIndex
  /-- Code 22, a Huffman code that is too long. -/
  | eHufCodelen
  /-- Code 23, a bad Huffman table. -/
  | eHufTable
  /-- Code 24, bits that match no Huffman code. -/
  | eHufNomatch
  /-- Code 25, an impossible LZW code. -/
  | eLzwCode
  /-- Code 26, a bit stream that ends inside a run. -/
  | eStreamTrunc
  /-- Code 27, an impossible padding count. -/
  | ePadb
  /-- Code 28, a cut-short RLE pair. -/
  | eRleTrunc
  /-- Code 29, a wrong file magic. -/
  | eHdrMagic
  /-- Code 30, an illegal file header field. -/
  | eHdrField
  /-- Code 31, a header or block longer than `LEN`. -/
  | eBlkLen
  /-- Code 32, a decoded byte count that is no whole number of elements. -/
  | eBlkAlign
  deriving DecidableEq, Repr

/-- `E_x(info)` of a rule's `raise` (00_scope.md R14, 60_exceptions.md R382); `info` is a mathematical integer. -/
structure Raised where
  /-- The condition. -/
  code : ErrCode
  /-- The information value, before it is cut to 64 bits. -/
  info : Nat
  deriving DecidableEq, Repr

/-- The buffer memory `MEM` (20_memory.md R60): the bytes written since power-on and not left unspecified since, as
(address, byte) pairs, addresses strictly rising. An address that is not listed has no specified value and reads as a
free value (`State.readByte` in Ops.lean; notes/assumptions/5.md). -/
abbrev Memory := List Host.Cell

/-- The canonical form of `Memory`: addresses strictly rising. No entry can equal what an unlisted address reads as in
the list, because that is no value at all; so two memories that specify the same bytes are the same list. -/
abbrev Memory.wf (m : Memory) : Prop := m.Pairwise (fun x y => x.1 < y.1)

/-- The state of the SFCU and of its host's program. -/
structure State where
  /-- The parameters of the instance (00_scope.md R10); nothing writes them. -/
  cfg : Config
  /-- Operand registers `r0 .. r15` (10_state.md R22). -/
  r : Vector Word 16
  /-- Coordinate registers `c0 .. c63` (R23). -/
  coords : Vector CoordWord 64
  /-- `STATUS.BUSY` (R28). -/
  busy : Bool
  /-- `STATUS.ERR` (R28). -/
  err : Bool
  /-- `ERRCODE`, bits 7:0 (R29). -/
  errcode : BitVec 8
  /-- `ERRINFO` (R29). -/
  errinfo : Word
  /-- `ICFG` (R30). -/
  icfg : Icfg
  /-- `CURVE0` (R31). -/
  curve0 : CurveSlot
  /-- `CURVE1` (R31). -/
  curve1 : CurveSlot
  /-- `PA` (R33). -/
  pa : Word
  /-- `PB` (R33). -/
  pb : Word
  /-- `LEN` (R34). -/
  len : Word
  /-- `CAP` (R35). -/
  cap : Word
  /-- `OLEN` (R36). -/
  olen : Word
  /-- `USED` (R36). -/
  used : Word
  /-- `PIDX` (R37). -/
  pidx : Word
  /-- `VMIN` (R38). -/
  vmin : Word
  /-- `VMAX` (R38). -/
  vmax : Word
  /-- `PADB` (R39). -/
  padb : Word
  /-- `EW` (R40). -/
  ew : Word
  /-- `HDR` (R41). -/
  hdr : Word
  /-- `MEM` (20_memory.md R60). -/
  mem : Memory
  /-- The model's own: the regions (base, length) that data faults have left unspecified (R69, U2), newest first. It
  says which draw of the free value an unlisted byte reads (notes/assumptions/6.md). -/
  drawn : List (Nat × Nat)
  /-- The model's own: the host operations still to be performed, the rest of the program (00_scope.md R15, 40_system.md
  R120; notes/assumptions/1.md). -/
  host : List HostOp
  /-- The model's own: what the host's reads have returned, newest first (notes/assumptions/1.md). -/
  answers : List Word
  deriving DecidableEq, Repr

/-- An interleaver configuration register that reads 0. -/
def Icfg.empty : Icfg := { valid := false, n := 0, b := 0 }

/-- A slot register that reads 0. -/
def CurveSlot.empty : CurveSlot := { valid := false, type := .rowMajor, n := 0, l := 0 }

/-- The machine right after power-on and reset (10_state.md R44, 70_reset_and_hazards.md R420): every register 0 but
`EW` = 1, no byte of `MEM` written, and no program (notes/assumptions/1.md). The instance is `Config.standard`
(DESIGN CHOICE for `MEMSZ`: notes/assumptions/4.md). -/
def State.reset : State where
  cfg := Config.standard
  r := Vector.replicate 16 0
  coords := Vector.replicate 64 0
  busy := false
  err := false
  errcode := 0
  errinfo := 0
  icfg := Icfg.empty
  curve0 := CurveSlot.empty
  curve1 := CurveSlot.empty
  pa := 0
  pb := 0
  len := 0
  cap := 0
  olen := 0
  used := 0
  pidx := 0
  vmin := 0
  vmax := 0
  padb := 0
  ew := 1
  hdr := 0
  mem := []
  drawn := []
  host := []
  answers := []

end Sys2Proof.Machine
end

