-- ==== Sys2Proof/Machine/Ops.lean ====
section
/-! DEFINITION. The named operations over registers and memory, raising a fault (60_exceptions.md R382) and clearing it
(40_system.md R124), the common checks of the bulk commands (20_memory.md R66) and the way a bulk command ends (R67 to
R69). -/

namespace Sys2Proof.Machine

/-! ### Byte order (20_memory.md R63) and elements (00_scope.md R14) -/

/-- `LE(bs)`: the little-endian value of a byte sequence (R14). -/
def leValue : List Byte → Nat
  | [] => 0
  | b :: bs => b.toNat + 256 * leValue bs

/-- `LEbytes(v, n)`: the `n` little-endian bytes of `v` (R14). -/
def leBytes : Nat → Nat → List Byte
  | 0, _ => []
  | n + 1, v => BitVec.ofNat 8 v :: leBytes n (v / 256)

/-- `ser`: elements to bytes, `ew` bytes each (49_block_container.md R355); what `ElemWrite` puts in memory. -/
def serialize (ew : Nat) (xs : List Nat) : List Byte := xs.flatMap (leBytes ew)

/-- The first `n` elements of `ew` bytes of a byte sequence. -/
def elements (ew : Nat) : Nat → List Byte → List Nat
  | 0, _ => []
  | n + 1, bs => leValue (bs.take ew) :: elements ew n (bs.drop ew)

/-! ### Memory -/

/-- The byte the memory specifies at an address, if any. -/
def Memory.find : Memory → Nat → Option Byte
  | [], _ => none
  | (k, b) :: m, a => if k = a then some b else Memory.find m a

/-- Write one byte, keeping addresses strictly rising. -/
def Memory.write : Memory → Nat → Byte → Memory
  | [], a, v => [(a, v)]
  | (k, b) :: m, a, v =>
    if a < k then (a, v) :: (k, b) :: m
    else if a = k then (a, v) :: m
    else (k, b) :: Memory.write m a v

/-- `MemWrite(addr, n, bs)` (00_scope.md R14). -/
def Memory.writeBytes (m : Memory) (a : Nat) : List Byte → Memory
  | [] => m
  | b :: bs => Memory.writeBytes (m.write a b) (a + 1) bs

/-- Leave the bytes `base .. base + len - 1` unspecified (20_memory.md R69): they are no longer listed. -/
def Memory.forget (m : Memory) (base len : Nat) : Memory :=
  m.filter (fun x => !(decide (base ≤ x.1) && decide (x.1 < base + len)))

/-- Which draw of the free value an address reads when nothing is listed for it: the number of the newest region of
`drawn` that covers it, counted from 1 for the oldest, or 0 (power-on). -/
def drawIndex : List (Nat × Nat) → Nat → Nat
  | [], _ => 0
  | (base, n) :: rest, a => if base ≤ a ∧ a < base + n then rest.length + 1 else drawIndex rest a

/-- What a read of one byte of `MEM` gives: the byte last written there, or, where nothing specifies it, a free value that
stays the same until the byte is written (20_memory.md R71, 93_implementation_defined.md U1, U2). -/
def State.readByte (s : State) (a : Nat) : Byte :=
  (s.mem.find a).getD (Config.freeByte (drawIndex s.drawn a) a)

/-- `MemRead(addr, n)` (00_scope.md R14). -/
def State.readBytes (s : State) (a : Nat) : Nat → List Byte
  | 0 => []
  | n + 1 => s.readByte a :: s.readBytes (a + 1) n

/-- The elements `ElemRead(base, 0) .. ElemRead(base, n - 1)` of `ew` bytes (00_scope.md R14). -/
def State.readElems (s : State) (base ew n : Nat) : List Nat :=
  elements ew n (s.readBytes base (n * ew))

/-- `MemWrite` on the state. -/
def State.writeBytes (s : State) (a : Nat) (bs : List Byte) : State :=
  { s with mem := s.mem.writeBytes a bs }

/-! ### Registers -/

/-- `r[i]` (10_state.md R22). -/
def State.reg (s : State) (i : RegIx) : Word := s.r.get ⟨i.toNat, i.isLt⟩

/-- `r[i] <- v` (10_state.md R22). -/
def State.setReg (s : State) (i : RegIx) (v : Word) : State :=
  { s with r := s.r.set i.toNat v i.isLt }

/-- `c[i]` for a natural index; only indices below `NMAX` = 64 exist (10_state.md R23), and no valid slot uses another. -/
def State.coord (s : State) (i : Nat) : CoordWord :=
  if h : i < 64 then s.coords.get ⟨i, h⟩ else 0

/-- `c[0 .. n-1]` as numbers. -/
def State.coordList (s : State) (n : Nat) : List Nat :=
  (List.range n).map (fun i => (s.coord i).toNat)

/-- `c[i] <- zext_CW(v[i])` for every `i` below the length of `v`; the others keep their values (41_curve.md R151). -/
def State.setCoords (s : State) (v : List Nat) : State :=
  { s with coords := Vector.ofFn (fun i : Fin 64 =>
      match v[i.val]? with
      | some x => BitVec.ofNat 32 x
      | none => s.coords.get i) }

/-- `CURVE<slot>` (10_state.md R31). -/
def State.slot (s : State) : SlotId → CurveSlot
  | .s0 => s.curve0
  | .s1 => s.curve1

/-- `CURVE<slot> <- v`; `STATUS.CV<slot>` is a copy of its `VALID` (R28, R31). -/
def State.setSlot (s : State) (k : SlotId) (v : CurveSlot) : State :=
  match k with
  | .s0 => { s with curve0 := v }
  | .s1 => { s with curve1 := v }

/-- The number of a slot, as `ERRINFO` records it (60_exceptions.md R385). -/
def slotNumber : SlotId → Nat
  | .s0 => 0
  | .s1 => 1

/-! ### Faults (60_exceptions.md) -/

/-- The fault codes (R385). -/
def errNumber : ErrCode → BitVec 8
  | .eCmd => 1
  | .eExtent => 2
  | .eNdims => 3
  | .eTotalOverflow => 4
  | .eIlvWidth => 5
  | .eCurveType => 6
  | .eNotConstructed => 7
  | .eCoordRange => 8
  | .eDistRange => 9
  | .eDimIndex => 10
  | .eReordMismatch => 11
  | .eReordLen => 12
  | .eReordTarget => 13
  | .eEw => 14
  | .eMemRange => 15
  | .eMemOverlap => 16
  | .eCap => 17
  | .eResource => 18
  | .eMtfAlphabet => 19
  | .eMtfRank => 20
  | .eBwtIndex => 21
  | .eHufCodelen => 22
  | .eHufTable => 23
  | .eHufNomatch => 24
  | .eLzwCode => 25
  | .eStreamTrunc => 26
  | .ePadb => 27
  | .eRleTrunc => 28
  | .eHdrMagic => 29
  | .eHdrField => 30
  | .eBlkLen => 31
  | .eBlkAlign => 32

/-- `raise E_x(info)`, the one way a command faults (R382): record the code and the information, cut to 64 bits, set
`ERR`, clear `BUSY`, and change nothing else (R383). -/
def State.raise (s : State) (e : Raised) : State :=
  { s with errcode := errNumber e.code, errinfo := BitVec.ofNat 64 e.info, err := true, busy := false }

/-- What `CLRERR` does (40_system.md R124), the only return from a fault (60_exceptions.md R388). -/
def State.clearErr (s : State) : State :=
  { s with err := false, errcode := 0, errinfo := 0 }

/-- The bytes of the output region `PB .. PB + CAP - 1` become unspecified (20_memory.md R69): they are no longer listed,
and a new draw of the free value covers them. An empty region leaves nothing to draw. -/
def State.loseOutput (s : State) : State :=
  if s.cap = 0 then s
  else { s with
    mem := s.mem.forget s.pb.toNat s.cap.toNat
    drawn := (s.pb.toNat, s.cap.toNat) :: s.drawn }

/-- The end of a command that raises a fault and leaves memory as it is. -/
def State.trap (s : State) (e : Raised) : Host.Outcome State Fault Refusal := .next (s.raise e)

/-! ### Bulk commands -/

/-- Raise `e` when `bad` holds. -/
def check (bad : Bool) (e : Raised) : Except Raised Unit := if bad then .error e else .ok ()

/-- Step 1 of the common checks (20_memory.md R66): `EW` is 1, 2 or 4. -/
def State.checkEw (s : State) : Except Raised Unit :=
  check (!(s.ew == 1 || s.ew == 2 || s.ew == 4)) ⟨.eEw, s.ew.toNat⟩

/-- Step 2: `LEN <= MAXELEMS`. -/
def State.checkLen (s : State) : Except Raised Unit :=
  check (decide (s.cfg.maxElems < s.len.toNat)) ⟨.eResource, s.len.toNat⟩

/-- Step 3: the input region lies in `MEM`. -/
def State.checkIn (s : State) (inbytes : Nat) : Except Raised Unit :=
  check (decide (s.cfg.memSz < s.pa.toNat + inbytes)) ⟨.eMemRange, s.pa.toNat⟩

/-- Step 4: the output region lies in `MEM`. -/
def State.checkOut (s : State) : Except Raised Unit :=
  check (decide (s.cfg.memSz < s.pb.toNat + s.cap.toNat)) ⟨.eMemRange, s.pb.toNat⟩

/-- Step 5: the two regions share no byte. -/
def State.checkOverlap (s : State) (inbytes : Nat) : Except Raised Unit :=
  check (decide (0 < inbytes) && decide (0 < s.cap.toNat) && decide (s.pa.toNat < s.pb.toNat + s.cap.toNat)
    && decide (s.pb.toNat < s.pa.toNat + inbytes)) ⟨.eMemOverlap, s.pb.toNat⟩

/-- The five common checks of a command that uses `EW` and has an output region (20_memory.md R66). -/
def State.typedChecks (s : State) (inbytes : Nat) : Except Raised Unit := do
  s.checkEw
  s.checkLen
  s.checkIn inbytes
  s.checkOut
  s.checkOverlap inbytes

/-- The common checks of a command that does not use `EW` and has an output region: all but step 1 (R66). -/
def State.byteChecks (s : State) (inbytes : Nat) : Except Raised Unit := do
  s.checkLen
  s.checkIn inbytes
  s.checkOut
  s.checkOverlap inbytes

/-- `LEN * EW`, a mathematical integer (R65). -/
def State.typedBytes (s : State) : Nat := s.len.toNat * s.ew.toNat

/-- The input elements of a typed command (R65, R67). -/
def State.inElems (s : State) : List Nat := s.readElems s.pa.toNat s.ew.toNat s.len.toNat

/-- The input bytes of a byte command (R65, R67). -/
def State.inBytes (s : State) : List Byte := s.readBytes s.pa.toNat s.len.toNat

/-- What a bulk command with an output region has computed: the bytes for `PB`, and the result registers it writes
besides `OLEN` (10_state.md R43); `none` leaves a register as it is. -/
structure BulkResult where
  /-- The bytes to write at `PB`. -/
  out : List Byte
  /-- `USED`. -/
  used : Option Nat
  /-- `PIDX`. -/
  pidx : Option Nat
  /-- `VMIN`. -/
  vmin : Option Nat
  /-- `VMAX`. -/
  vmax : Option Nat
  /-- `PADB`. -/
  padb : Option Nat
  deriving DecidableEq, Repr

/-- A result that writes `OLEN` and nothing else. -/
def plainResult (out : List Byte) : BulkResult :=
  { out := out, used := none, pidx := none, vmin := none, vmax := none, padb := none }

/-- A result register after a command: the value the command gives, or what it held. -/
def updateWord (old : Word) (v : Option Nat) : Word :=
  match v with
  | some n => BitVec.ofNat 64 n
  | none => old

/-- Completion without a fault: the bytes are written at `PB`, `OLEN` is their number, and the result registers take
their values (20_memory.md R68, 10_state.md R43). -/
def State.complete (s : State) (b : BulkResult) : State :=
  { s with
    mem := s.mem.writeBytes s.pb.toNat b.out
    olen := BitVec.ofNat 64 b.out.length
    used := updateWord s.used b.used
    pidx := updateWord s.pidx b.pidx
    vmin := updateWord s.vmin b.vmin
    vmax := updateWord s.vmax b.vmax
    padb := updateWord s.padb b.padb }

/-- The end of a bulk command with an output region. A common check that failed changes no byte (20_memory.md R69).
Otherwise the result is computed whole before anything is written (R67): a data fault, or `E_CAP` for a result longer
than `CAP` (R68), leaves `OUT` unspecified (R69). The result is given as a function of nothing, so that evaluating it
waits for the checks. -/
def State.finishBulk (s : State) (checks : Except Raised Unit) (result : Unit → Except Raised BulkResult) :
    Host.Outcome State Fault Refusal :=
  match checks with
  | .error e => s.trap e
  | .ok () =>
    match result () with
    | .error e => s.loseOutput.trap e
    | .ok b =>
      if s.cap.toNat < b.out.length then s.loseOutput.trap ⟨.eCap, b.out.length⟩
      else .next (s.complete b)

end Sys2Proof.Machine
end

