-- ==== Sys2Proof/Machine/Bwt.lean ====
section
/-! DEFINITION. The BWT engine: `BWTF` and `BWTI` (44_bwt.md). -/

namespace Sys2Proof.Machine

/-- A symbol of the extended block: an element value, or `none` for `EOB` (R222). -/
abbrev Symbol := Option Nat

/-- `a` sorts before `b`: unsigned order, `EOB` greater than every element (R221, R222). -/
def symbolLt : Symbol → Symbol → Bool
  | some a, some b => decide (a < b)
  | some _, none => true
  | none, _ => false

/-- The order of rows, by their suffixes of the extended block (R223): `a` sorts before `b` or is `b`. -/
def rowLe : List Symbol → List Symbol → Bool
  | [], _ => true
  | _ :: _, [] => false
  | a :: as, b :: bs => symbolLt a b || (a == b && rowLe as bs)

/-- `xe = x ++ [EOB]` (R222). -/
def extended (xs : List Nat) : List Symbol := xs.map some ++ [none]

/-- `sa[0 .. n]`: the row numbers in the order of their rows (R224). -/
def sortedRows (xe : List Symbol) : List Nat :=
  (List.range xe.length).insertionSort (fun i k => rowLe (xe.drop i) (xe.drop k) = true)

/-- `Lc[r]`: the symbol before row `sa[r]`, `EOB` for the identity row (R224). -/
def lastSymbol (xe : List Symbol) (row : Nat) : Symbol :=
  if row = 0 then none else xe.getD (row - 1) none

/-- A constant block: `min = max` (R225). -/
def isConstant : List Nat → Bool
  | [] => true
  | x :: xs => xs.all (· == x)

/-- `bwt_forward` (R224). -/
def bwtForward (xs : List Nat) : List Nat × Nat :=
  if isConstant xs then (xs, 0)
  else
    let xe := extended xs
    let sa := sortedRows xe
    let p := sa.idxOf 0
    let lc := sa.map (lastSymbol xe)
    ((lc.take p ++ lc.drop (p + 1)).reduceOption, p)

/-- `psi[0 .. n]`: the row numbers sorted by (`Lc[r]`, `r`) (R227). -/
def inverseRows (lc : List Symbol) : List Nat :=
  (List.range lc.length).insertionSort (fun r q =>
    symbolLt (lc.getD r none) (lc.getD q none) = true ∨ (lc.getD r none = lc.getD q none ∧ r ≤ q))

/-- The walk of the inversion from row `r`, `k` symbols still to come; `f` is the first column. It must meet `EOB` exactly
at the end (R227, R228). -/
def inverseWalk (f : List Symbol) (psi : List Nat) (p : Nat) : Nat → Nat → Except Raised (List Nat)
  | 0, r =>
    match f.getD r none with
    | none => .ok []
    | some _ => .error ⟨.eBwtIndex, p⟩
  | k + 1, r =>
    match f.getD r none with
    | none => .error ⟨.eBwtIndex, p⟩
    | some v =>
      match inverseWalk f psi p k (psi.getD r 0) with
      | .error e => .error e
      | .ok xs => .ok (v :: xs)

/-- `bwt_inverse` (R227). -/
def bwtInverse (ts : List Nat) (p : Nat) : Except Raised (List Nat) :=
  if isConstant ts then .ok ts
  else if ts.length ≤ p then .error ⟨.eBwtIndex, p⟩
  else
    let lc := (ts.take p).map some ++ [none] ++ (ts.drop p).map some
    let psi := inverseRows lc
    let f := psi.map (fun r => lc.getD r none)
    inverseWalk f psi p ts.length p

/-- `BWTF` (R226). -/
def execBwtf (s : State) : Host.Outcome State Fault Refusal :=
  s.finishBulk (s.typedChecks s.typedBytes)
    (fun _ =>
     let tp := bwtForward s.inElems
     .ok { plainResult (serialize s.ew.toNat tp.1) with pidx := some tp.2 })

/-- `BWTI` (R229). -/
def execBwti (s : State) : Host.Outcome State Fault Refusal :=
  s.finishBulk (s.typedChecks s.typedBytes) (fun _ => do
    let xs ← bwtInverse s.inElems s.pidx.toNat
    return plainResult (serialize s.ew.toNat xs))

end Sys2Proof.Machine
end

