-- ==== Sys2Proof/Machine/BitStream.lean ====
section
/-! DEFINITION. The bit-stream primitive of the Huffman and LZW codecs (46_bitstream.md). A stream is a list of bits in
order; bit `k` is bit `7 - (k mod 8)` of byte `k // 8` (R262). -/

namespace Sys2Proof.Machine

/-- The bits of the run `put(v, w)`: `v[w-1]` first, `v[0]` last (R262, R263). -/
def putBits (v : Nat) : Nat → List Bool
  | 0 => []
  | w + 1 => v.testBit w :: putBits v w

/-- The bits of a sequence of runs (value, width), appended in order (R261, R263). -/
def runBits (runs : List (Nat × Nat)) : List Bool := runs.flatMap (fun p => putBits p.1 p.2)

/-- The padding count of a stream of `t` bits (R263, R264). -/
def padCount (t : Nat) : Nat := (8 - t % 8) % 8

/-- Eight bits of the stream as a byte, the first in bit 7 (R262). -/
def byteOfBits (b7 b6 b5 b4 b3 b2 b1 b0 : Bool) : Byte :=
  BitVec.ofNat 8 (128 * b7.toNat + 64 * b6.toNat + 32 * b5.toNat + 16 * b4.toNat + 8 * b3.toNat + 4 * b2.toNat
    + 2 * b1.toNat + b0.toNat)

/-- The bytes of a stream of whole bytes (R262). -/
def packBits : List Bool → List Byte
  | b7 :: b6 :: b5 :: b4 :: b3 :: b2 :: b1 :: b0 :: bits => byteOfBits b7 b6 b5 b4 b3 b2 b1 b0 :: packBits bits
  | _ => []

/-- `finish()`: pad with zero bits to a byte boundary; the bytes and the padding count (R263). -/
def finishBits (bits : List Bool) : List Byte × Nat :=
  (packBits (bits ++ List.replicate (padCount bits.length) false), padCount bits.length)

/-- The bits of a byte in the order of the stream (R262). -/
def bitsOfByte (b : Byte) : List Bool := putBits b.toNat 8

/-- A reader: the bits not yet read and the position of the next one (R266). -/
structure BitReader where
  /-- The bits still to be read. -/
  bits : List Bool
  /-- `pos`. -/
  pos : Nat
  deriving DecidableEq, Repr

/-- `new(bytes, pad)` (R266, R267). -/
def newReader (bytes : List Byte) (pad : Nat) : Except Raised BitReader :=
  if 7 < pad ∨ 8 * bytes.length < pad then .error ⟨.ePadb, pad⟩
  else .ok { bits := (bytes.flatMap bitsOfByte).take (8 * bytes.length - pad), pos := 0 }

/-- Read `w` bits onto the value `v`, or none if the bits run out (R266). -/
def takeBits : Nat → Nat → List Bool → Option (Nat × List Bool)
  | 0, v, bits => some (v, bits)
  | _ + 1, _, [] => none
  | w + 1, v, b :: bits => takeBits w (2 * v + b.toNat) bits

/-- `get(w)`: the value of the next `w` bits and the reader after them, or `E_STREAM_TRUNC` with the position at which the
run began (R266). -/
def getBits (w : Nat) (rd : BitReader) : Except Raised (Nat × BitReader) :=
  match takeBits w 0 rd.bits with
  | some (v, bits) => .ok (v, { bits := bits, pos := rd.pos + w })
  | none => .error ⟨.eStreamTrunc, rd.pos⟩

end Sys2Proof.Machine
end

