-- ==== Sys2Proof/Machine/Huffman.lean ====
section
/-! DEFINITION. The Huffman encoder and decoder with the serialised code table: `HUFE` and `HUFD` (47_huffman.md). -/

namespace Sys2Proof.Machine

/-! ### The tree (R280 to R286) -/

/-- A tree of the node pool (R282): a leaf is its symbol, an inner node its two children. The numbers of inner nodes are
transient and show nowhere (10_state.md R42; notes/assumptions/8.md). -/
inductive HufTree where
  /-- A leaf: the byte value of its slot. -/
  | leaf (s : Nat)
  /-- An inner node: left is the 0 child, right the 1 child. -/
  | node (left right : HufTree)
  deriving DecidableEq, Repr

/-- A queue entry `(freq, seq, node)` (R283). -/
structure HufEntry where
  /-- The frequency. -/
  freq : Nat
  /-- The insertion count. -/
  seq : Nat
  /-- The tree. -/
  tree : HufTree
  deriving DecidableEq, Repr

/-- `a` is removed before `b`: smaller `freq`, and among equal `freq` smaller `seq` (R283). -/
def hufBefore (a b : HufEntry) : Bool :=
  decide (a.freq < b.freq) || (decide (a.freq = b.freq) && decide (a.seq < b.seq))

/-- Insert into the queue, kept in the order of removal (R283). -/
def hufInsert (e : HufEntry) : List HufEntry → List HufEntry
  | [] => [e]
  | h :: q => if hufBefore e h then e :: h :: q else h :: hufInsert e q

/-- The leaves of the symbols from `s` on, inserted in ascending order with the next insertion counts (R283); `k` symbols
are left. -/
def hufLeaves (xs : List Nat) : Nat → Nat → Nat → List HufEntry → List HufEntry
  | 0, _, _, q => q
  | k + 1, s, seq, q =>
    if xs.count s = 0 then hufLeaves xs k (s + 1) seq q
    else hufLeaves xs k (s + 1) (seq + 1) (hufInsert ⟨xs.count s, seq, .leaf s⟩ q)

/-- The merging loop (R283): the two smallest entries become the left and the right child of a new node. Each turn
shortens the queue by one, so its length is fuel enough. -/
def hufMerge : Nat → Nat → List HufEntry → Option HufTree
  | fuel + 1, seq, a :: b :: q =>
    hufMerge fuel (seq + 1) (hufInsert ⟨a.freq + b.freq, seq, .node a.tree b.tree⟩ q)
  | _, _, a :: _ => some a.tree
  | _, _, [] => none

/-- `huf_build` on the frequencies of the bytes `xs` (R281, R283): the root, none for no symbol. -/
def hufBuild (xs : List Nat) : Option HufTree :=
  let q := hufLeaves xs 256 0 0 []
  hufMerge q.length q.length q

/-- The codes (symbol, length, code) of the leaves under a node whose own code is `code` of `len` bits (R284). -/
def hufTreeCodes : HufTree → Nat → Nat → List (Nat × Nat × Nat)
  | .leaf s, len, code => [(s, len, code)]
  | .node left right, len, code =>
    hufTreeCodes left (len + 1) (2 * code) ++ hufTreeCodes right (len + 1) (2 * code + 1)

/-- The codes of a tree; a root that is a leaf has the one-bit code 0 (R284, R285). -/
def hufCodes : Option HufTree → List (Nat × Nat × Nat)
  | none => []
  | some (.leaf s) => [(s, 1, 0)]
  | some (.node left right) => hufTreeCodes (.node left right) 0 0

/-- `(len[s], code[s])` for every symbol `s` in `0 .. 255`; a symbol not in the tree has `(0, 0)` (R281, R284). -/
def hufTable (codes : List (Nat × Nat × Nat)) : List (Nat × Nat) :=
  (List.range 256).map (fun s => (codes.lookup s).getD (0, 0))

/-- `max over s of len[s]` (R286). -/
def hufMaxLen (table : List (Nat × Nat)) : Nat := (table.map Prod.fst).foldl max 0

/-! ### Table and payload (R287 to R290) -/

/-- `bitlen(v)` (00_scope.md R13). -/
def bitlen (v : Nat) : Nat := if v = 0 then 0 else v.log2 + 1

/-- `W = max(1, bitlen(maxlen))` (R287). -/
def hufWidth (table : List (Nat × Nat)) : Nat := max 1 (bitlen (hufMaxLen table))

/-- "Code count": the number of symbols that have a code (R288). -/
def hufCount (table : List (Nat × Nat)) : Nat := table.countP (fun p => decide (0 < p.1))

/-- The runs of `huf_write_table` (R288). -/
def hufTableRuns (table : List (Nat × Nat)) : List (Nat × Nat) :=
  (hufCount table, 16) :: (hufWidth table, 16)
    :: table.flatMap (fun p => [(p.1, hufWidth table), (p.2, p.1)])

/-- The runs of the payload: the code of each input byte (R289). -/
def hufPayloadRuns (table : List (Nat × Nat)) (xs : List Nat) : List (Nat × Nat) :=
  xs.map (fun b => ((table.getD b (0, 0)).2, (table.getD b (0, 0)).1))

/-- `huf_encode`: the bytes and the padding count (R290). -/
def hufEncode (maxlen : Nat) (bytes : List Byte) : Except Raised (List Byte × Nat) :=
  let xs := bytes.map BitVec.toNat
  let table := hufTable (hufCodes (hufBuild xs))
  if maxlen < hufMaxLen table then .error ⟨.eHufCodelen, hufMaxLen table⟩
  else .ok (finishBits (runBits (hufTableRuns table ++ hufPayloadRuns table xs)))

/-! ### Decoding (R291 to R294) -/

/-- A decoding table: ((length, code), symbol) (R291). -/
abbrev HufLookup := List ((Nat × Nat) × Nat)

/-- The table slots of the symbols from `s` on; `k` are left (R291, the loop). -/
def hufReadSlots (maxlen w : Nat) : Nat → Nat → BitReader → HufLookup → Except Raised (HufLookup × BitReader)
  | 0, _, rd, table => .ok (table, rd)
  | k + 1, s, rd, table => do
    let (l, rd) ← getBits w rd
    check (decide (maxlen < l)) ⟨.eHufCodelen, l⟩
    let (code, rd) ← getBits l rd
    if l = 0 then hufReadSlots maxlen w k (s + 1) rd table
    else do
      check (table.lookup (l, code)).isSome ⟨.eHufTable, 2⟩
      hufReadSlots maxlen w k (s + 1) rd (((l, code), s) :: table)

/-- `huf_read_table` (R291). -/
def hufReadTable (maxlen : Nat) (rd : BitReader) : Except Raised (HufLookup × BitReader) := do
  let (count, rd) ← getBits 16 rd
  let (w, rd) ← getBits 16 rd
  check (decide (w < 1) || decide (16 < w)) ⟨.eHufTable, 1⟩
  let (table, rd) ← hufReadSlots maxlen w 256 0 rd []
  check (!(table.length == count)) ⟨.eHufTable, 3⟩
  return (table, rd)

/-- Greedy matching over the bits left (R293): `pos` is the position of the next bit, `l` and `c` the length and value of the
bits that match no code so far. -/
def hufMatch (maxlen : Nat) (table : HufLookup) : List Bool → Nat → Nat → Nat → Except Raised (List Nat)
  | [], pos, l, _ => if l = 0 then .ok [] else .error ⟨.eStreamTrunc, pos - l⟩
  | b :: bits, pos, l, c =>
    match table.lookup (l + 1, 2 * c + b.toNat) with
    | some s =>
      match hufMatch maxlen table bits (pos + 1) 0 0 with
      | .error e => .error e
      | .ok out => .ok (s :: out)
    | none =>
      if maxlen ≤ l + 1 then .error ⟨.eHufNomatch, pos + 1 - (l + 1)⟩
      else hufMatch maxlen table bits (pos + 1) (l + 1) (2 * c + b.toNat)

/-- `huf_decode` (R294). -/
def hufDecode (maxlen : Nat) (bytes : List Byte) (pad : Nat) : Except Raised (List Byte) := do
  let rd ← newReader bytes pad
  let (table, rd) ← hufReadTable maxlen rd
  let out ← hufMatch maxlen table rd.bits rd.pos 0 0
  return out.map (BitVec.ofNat 8)

/-- `HUFE` (R290). -/
def execHufe (s : State) : Host.Outcome State Fault Refusal :=
  s.finishBulk (s.byteChecks s.len.toNat) (fun _ => do
    let c ← hufEncode s.cfg.hufMaxlen s.inBytes
    return { plainResult c.1 with padb := some c.2 })

/-- `HUFD` (R294). -/
def execHufd (s : State) : Host.Outcome State Fault Refusal :=
  s.finishBulk (s.byteChecks s.len.toNat) (fun _ => do
    let out ← hufDecode s.cfg.hufMaxlen s.inBytes s.padb.toNat
    return plainResult out)

end Sys2Proof.Machine
end

