-- ==== Sys2Proof/Machine/Lzw.lean ====
section
/-! DEFINITION. The LZW dictionary compressor: `LZWE` and `LZWD` (48_lzw_rle.md). -/

namespace Sys2Proof.Machine

/-- `lzw_width(size)` (R312). -/
def lzwWidth (size : Nat) : Nat :=
  if size ≤ 512 then 9 else if size ≤ 1024 then 10 else if size ≤ 2048 then 11 else 12

/-- The encoder's dictionary: (prior code, next byte) to code (R311). -/
abbrev LzwDict := List ((Nat × Nat) × Nat)

/-- The loop of `lzw_encode` after the first byte, as the runs it writes: `cur` is the code of the match in progress and
`size` the number of dictionary entries, which is `256 + j` (R313, R314). -/
def lzwEncodeLoop : List Nat → Nat → LzwDict → Nat → List (Nat × Nat)
  | [], cur, _, size => [(cur, lzwWidth size)]
  | b :: xs, cur, dict, size =>
    match dict.lookup (cur, b) with
    | some code => lzwEncodeLoop xs code dict size
    | none =>
      (cur, lzwWidth size) ::
        (if size + 1 = Config.lzwCap then lzwEncodeLoop xs b [] 256
         else lzwEncodeLoop xs b (((cur, b), size) :: dict) (size + 1))

/-- The runs `lzw_encode` writes (R314). -/
def lzwRuns : List Nat → List (Nat × Nat)
  | [] => []
  | b :: xs => lzwEncodeLoop xs b [] 256

/-- `lzw_encode`: the bytes and the padding count (R314). -/
def lzwEncode (bytes : List Byte) : List Byte × Nat :=
  finishBits (runBits (lzwRuns (bytes.map BitVec.toNat)))

/-- The decoder's entries: code to byte string (R316). -/
abbrev LzwEntries := List (Nat × List Nat)

/-- `str(c)` (R316). -/
def lzwString (entries : LzwEntries) (code : Nat) : List Nat :=
  if code < 256 then [code] else (entries.lookup code).getD []

/-- The string a code stands for when `prev` is the code before it in the cycle, `size` entries being known: the case
`code = size` is the entry the encoder made in the step before (R316, R317). -/
def lzwExpand (entries : LzwEntries) (size prev code : Nat) : Except Raised (List Nat) :=
  if code < size then .ok (lzwString entries code)
  else if code = size then
    .ok (lzwString entries prev ++ [(lzwString entries prev).headD 0])
  else .error ⟨.eLzwCode, code⟩

/-- The decoder's transient state between codes (R316). -/
structure LzwDecoder where
  /-- The entries made so far in this cycle. -/
  entries : LzwEntries
  /-- `size`. -/
  size : Nat
  /-- `j`, the number of codes read in this cycle. -/
  j : Nat
  /-- `prev`, none at the start of a cycle. -/
  prev : Option Nat
  deriving DecidableEq, Repr

/-- The decoder at the start of a cycle (R316). -/
def lzwFresh : LzwDecoder := { entries := [], size := 256, j := 0, prev := none }

/-- The string of a code and the decoder after the entry it makes, before `prev`, `j` and the clear (R316). -/
def lzwAccept (d : LzwDecoder) (code : Nat) : Except Raised (List Nat × LzwDecoder) :=
  match d.prev with
  | none => if 256 ≤ code then .error ⟨.eLzwCode, code⟩ else .ok ([code], d)
  | some prev =>
    match lzwExpand d.entries d.size prev code with
    | .error e => .error e
    | .ok str =>
      .ok (str, { d with
        entries := (d.size, lzwString d.entries prev ++ [str.headD 0]) :: d.entries
        size := d.size + 1 })

/-- `prev`, `j` and the clear after a code (R313, R316). -/
def lzwAdvance (d : LzwDecoder) (code : Nat) : LzwDecoder :=
  if d.j + 1 = Config.lzwCap - 256 then lzwFresh else { d with j := d.j + 1, prev := some code }

/-- The loop of `lzw_decode` (R316). Each turn reads at least 9 bits, so the number of bits is fuel enough. -/
def lzwDecodeLoop : Nat → BitReader → LzwDecoder → Except Raised (List Nat)
  | 0, _, _ => .ok []
  | fuel + 1, rd, d =>
    if rd.bits.isEmpty then .ok []
    else do
      let (code, rd) ← getBits (lzwWidth (256 + d.j)) rd
      let (str, d) ← lzwAccept d code
      let rest ← lzwDecodeLoop fuel rd (lzwAdvance d code)
      return str ++ rest

/-- `lzw_decode` (R316). -/
def lzwDecode (bytes : List Byte) (pad : Nat) : Except Raised (List Byte) := do
  let rd ← newReader bytes pad
  let out ← lzwDecodeLoop rd.bits.length rd lzwFresh
  return out.map (BitVec.ofNat 8)

/-- `LZWE` (R315). -/
def execLzwe (s : State) : Host.Outcome State Fault Refusal :=
  s.finishBulk (s.byteChecks s.len.toNat)
    (fun _ =>
     let c := lzwEncode s.inBytes
     .ok { plainResult c.1 with padb := some c.2 })

/-- `LZWD` (R318). -/
def execLzwd (s : State) : Host.Outcome State Fault Refusal :=
  s.finishBulk (s.byteChecks s.len.toNat) (fun _ => do
    let out ← lzwDecode s.inBytes s.padb.toNat
    return plainResult out)

end Sys2Proof.Machine
end

