-- ==== Sys2Proof/Machine/Mtf.lean ====
section
/-! DEFINITION. The move-to-front codec: `MTFE` and `MTFD` (45_mtf.md). -/

namespace Sys2Proof.Machine

/-- `min(x)` of a block of elements, 0 for the empty block (R243). -/
def blockMin : List Nat → Nat
  | [] => 0
  | x :: xs => xs.foldl min x

/-- `max(x)` of a block of elements, 0 for the empty block (R243). -/
def blockMax : List Nat → Nat
  | [] => 0
  | x :: xs => xs.foldl max x

/-- The starting list: every integer from `mn` to `mx`, ascending (R241). -/
def alphabet (mn mx : Nat) : List Nat := List.range' mn (mx - mn + 1)

/-- Move the value at position `k` to the front (R241). -/
def moveToFront (list : List Nat) (k : Nat) : List Nat :=
  match list[k]? with
  | some v => v :: list.eraseIdx k
  | none => list

/-- The encoding loop (R243). -/
def mtfEncodeLoop : List Nat → List Nat → List Nat
  | _, [] => []
  | list, x :: xs => list.idxOf x :: mtfEncodeLoop (moveToFront list (list.idxOf x)) xs

/-- `mtf_encode`: the codes, the minimum and the maximum (R243). -/
def mtfEncode (amax : Nat) (xs : List Nat) : Except Raised (List Nat × Nat × Nat) :=
  if xs = [] then .ok ([], 0, 0)
  else if amax < blockMax xs - blockMin xs + 1 then
    .error ⟨.eMtfAlphabet, blockMax xs - blockMin xs + 1⟩
  else .ok (mtfEncodeLoop (alphabet (blockMin xs) (blockMax xs)) xs, blockMin xs, blockMax xs)

/-- The decoding loop; `k` is the index of the first code given, `a` the alphabet size (R245, R246). -/
def mtfDecodeLoop (a : Nat) : Nat → List Nat → List Nat → Except Raised (List Nat)
  | _, _, [] => .ok []
  | k, list, rk :: rest =>
    if a ≤ rk then .error ⟨.eMtfRank, k⟩
    else
      match mtfDecodeLoop a (k + 1) (moveToFront list rk) rest with
      | .error e => .error e
      | .ok xs => .ok (list.getD rk 0 :: xs)

/-- `mtf_decode` (R246). -/
def mtfDecode (codes : List Nat) (mn mx : Nat) : Except Raised (List Nat) :=
  mtfDecodeLoop (mx - mn + 1) 0 (alphabet mn mx) codes

/-- `MtfRangeCheck` (R244) on a minimum and a maximum. -/
def mtfRangeCheck (amax ew mn mx : Nat) : Except Raised Unit := do
  check (decide (mx < mn)) ⟨.eMtfAlphabet, mx⟩
  check (decide (2 ^ (8 * ew) ≤ mx)) ⟨.eMtfAlphabet, mx⟩
  check (decide (amax < mx - mn + 1)) ⟨.eMtfAlphabet, mx⟩

/-- `MTFE` (R243). -/
def execMtfe (s : State) : Host.Outcome State Fault Refusal :=
  s.finishBulk (s.typedChecks s.typedBytes) (fun _ => do
    let c ← mtfEncode s.cfg.mtfAmax s.inElems
    return { plainResult (serialize s.ew.toNat c.1) with vmin := some c.2.1, vmax := some c.2.2 })

/-- `MTFD` (R246). -/
def execMtfd (s : State) : Host.Outcome State Fault Refusal :=
  s.finishBulk (s.typedChecks s.typedBytes) (fun _ => do
    mtfRangeCheck s.cfg.mtfAmax s.ew.toNat s.vmin.toNat s.vmax.toNat
    let xs ← mtfDecode s.inElems s.vmin.toNat s.vmax.toNat
    return plainResult (serialize s.ew.toNat xs))

end Sys2Proof.Machine
end

