-- ==== Sys2Proof/Machine/Operands.lean ====
section
/-! DEFINITION. Operand forms: the curve-type field (41_curve.md R143), the codec field (30_encoding.md R95), the fields
of `HDR` (10_state.md R41), slots checked for validity (41_curve.md R149) and the register space of the host (10_state.md
R25). -/

namespace Sys2Proof.Machine

/-- The variant a type field names, if it is one the SFCU supports (41_curve.md R143). -/
def curveTypeOf (type : BitVec 3) : Option CurveType :=
  match type with
  | 0#3 => some .rowMajor
  | 2#3 => some .morton
  | 3#3 => some .gray
  | 4#3 => some .hilbert
  | _ => none

/-- The codecs of `BLKC` and `BLKD` (30_encoding.md R95). -/
inductive Codec where
  /-- 0: the payload is the elements as bytes. -/
  | none
  /-- 1: RLE. -/
  | rle
  /-- 2: HUFFMAN. -/
  | huffman
  /-- 5: LZW. -/
  | lzw
  deriving DecidableEq, Repr

/-- The codec a codec field names; values 3, 4, 6 and 7 are reserved (R95). -/
def codecOf (codec : BitVec 3) : Option Codec :=
  match codec with
  | 0#3 => some .none
  | 1#3 => some .rle
  | 2#3 => some .huffman
  | 5#3 => some .lzw
  | _ => Option.none

/-- The codecs whose payload is a bit stream and so has a padding count (49_block_container.md R352). -/
def codecPads : Codec → Bool
  | .none => false
  | .rle => false
  | .huffman => true
  | .lzw => true

/-- `SlotCheck(s)`: the slot, if it is valid (41_curve.md R149). -/
def State.checkSlot (s : State) (k : SlotId) : Except Raised CurveSlot :=
  if (s.slot k).valid then .ok (s.slot k) else .error ⟨.eNotConstructed, slotNumber k⟩

/-- `s.TOTAL = s.L ^ s.N` (10_state.md R32). -/
def slotTotal (k : CurveSlot) : Nat := k.l.toNat ^ k.n.toNat

/-- `HDR.NDIMS`, bits 7:0 (10_state.md R41). -/
def hdrNdims (h : Word) : BitVec 8 := h.extractLsb' 0 8

/-- `HDR.K`, bits 15:8. -/
def hdrK (h : Word) : BitVec 8 := h.extractLsb' 8 8

/-- `HDR.DTYPE`, bits 23:16. -/
def hdrDtype (h : Word) : BitVec 8 := h.extractLsb' 16 8

/-- `HDR.SFC`, bits 30:24. -/
def hdrSfc (h : Word) : BitVec 7 := h.extractLsb' 24 7

/-- `HDR.BT`, bit 31. -/
def hdrBt (h : Word) : BitVec 1 := h.extractLsb' 31 1

/-- `HDR.COMP`, bits 39:32. -/
def hdrComp (h : Word) : BitVec 8 := h.extractLsb' 32 8

/-- `HDR.NPAD`, bits 47:40. -/
def hdrNpad (h : Word) : BitVec 8 := h.extractLsb' 40 8

/-- The registers of the host's register space (10_state.md R25). -/
inductive RegName where
  /-- `r0 .. r15`. -/
  | r (i : RegIx)
  /-- `c0 .. c63`. -/
  | c (i : BitVec 6)
  /-- 0x100, write-only. -/
  | cmd
  /-- 0x101, read-only. -/
  | status
  /-- 0x102, read-only. -/
  | errcode
  /-- 0x103, read-only. -/
  | errinfo
  /-- 0x104, read-only. -/
  | icfg
  /-- 0x108, read-only. -/
  | curve0
  /-- 0x109, read-only. -/
  | curve1
  /-- 0x110. -/
  | pa
  /-- 0x111. -/
  | pb
  /-- 0x112. -/
  | len
  /-- 0x113. -/
  | cap
  /-- 0x114, read-only. -/
  | olen
  /-- 0x115, read-only. -/
  | used
  /-- 0x116. -/
  | pidx
  /-- 0x117. -/
  | vmin
  /-- 0x118. -/
  | vmax
  /-- 0x119. -/
  | padb
  /-- 0x11A. -/
  | ew
  /-- 0x11B. -/
  | hdr
  deriving DecidableEq, Repr

/-- The register a number names, none where the table of R25 has no such number. -/
def regName (n : RegNum) : Option RegName :=
  if n.toNat < 0x10 then some (.r (n.extractLsb' 0 4))
  else if 0x40 ≤ n.toNat ∧ n.toNat < 0x80 then some (.c (n.extractLsb' 0 6))
  else match n with
    | 0x100#12 => some .cmd
    | 0x101#12 => some .status
    | 0x102#12 => some .errcode
    | 0x103#12 => some .errinfo
    | 0x104#12 => some .icfg
    | 0x108#12 => some .curve0
    | 0x109#12 => some .curve1
    | 0x110#12 => some .pa
    | 0x111#12 => some .pb
    | 0x112#12 => some .len
    | 0x113#12 => some .cap
    | 0x114#12 => some .olen
    | 0x115#12 => some .used
    | 0x116#12 => some .pidx
    | 0x117#12 => some .vmin
    | 0x118#12 => some .vmax
    | 0x119#12 => some .padb
    | 0x11A#12 => some .ew
    | 0x11B#12 => some .hdr
    | _ => Option.none

/-- The number of bytes of a host memory access (20_memory.md R62). -/
def accessBytes : AccessSize → Nat
  | .one => 1
  | .two => 2
  | .four => 4
  | .eight => 8

end Sys2Proof.Machine
end

