-- ==== Sys2Proof/Machine/Rle.lean ====
section
/-! DEFINITION. The run-length codec: `RLEE` and `RLED` (48_lzw_rle.md R325 to R333). -/

namespace Sys2Proof.Machine

/-- The maximal runs of a block, as (length, value) in order (R327). -/
def rleRuns : List Nat → List (Nat × Nat)
  | [] => []
  | x :: xs =>
    match rleRuns xs with
    | (run, v) :: rest => if v = x then (run + 1, v) :: rest else (1, x) :: (run, v) :: rest
    | [] => [(1, x)]

/-- The counts of the pairs of one run: as many 255s as leave a last count in `1 .. 255` (R327). -/
def rleCounts (run : Nat) : List Nat :=
  List.replicate ((run - 1) / 255) 255 ++ [run - 255 * ((run - 1) / 255)]

/-- The bytes of a pair (R326). -/
def rlePair (ew count v : Nat) : List Byte := BitVec.ofNat 8 count :: leBytes ew v

/-- `rle_encode` (R327). -/
def rleEncode (ew : Nat) (xs : List Nat) : List Byte :=
  (rleRuns xs).flatMap (fun p => (rleCounts p.1).flatMap (fun count => rlePair ew count p.2))

/-- The elements of the first `k` pairs (R329). -/
def rleReplay (ew : Nat) : Nat → List Byte → List Nat
  | 0, _ => []
  | _ + 1, [] => []
  | k + 1, count :: bytes =>
    List.replicate count.toNat (leValue (bytes.take ew)) ++ rleReplay ew k (bytes.drop ew)

/-- `rle_decode` (R328, R329). -/
def rleDecode (ew : Nat) (bytes : List Byte) : Except Raised (List Nat) :=
  if bytes.length % (1 + ew) ≠ 0 then .error ⟨.eRleTrunc, bytes.length⟩
  else .ok (rleReplay ew (bytes.length / (1 + ew)) bytes)

/-- `RLEE` (R327). -/
def execRlee (s : State) : Host.Outcome State Fault Refusal :=
  s.finishBulk (s.typedChecks s.typedBytes) (fun _ => .ok (plainResult (rleEncode s.ew.toNat s.inElems)))

/-- `RLED` (R329). -/
def execRled (s : State) : Host.Outcome State Fault Refusal :=
  s.finishBulk (s.typedChecks s.len.toNat) (fun _ => do
    let xs ← rleDecode s.ew.toNat s.inBytes
    return plainResult (serialize s.ew.toNat xs))

end Sys2Proof.Machine
end

