-- ==== Sys2Proof/Machine/Container.lean ====
section
/-! DEFINITION. The container file header and the block compressor: `HDRP`, `HDRU`, `BLKC`, `BLKD`
(49_block_container.md). -/

namespace Sys2Proof.Machine

/-! ### The file header (R340 to R349) -/

/-- The magic `"SFCC"` (R341). -/
def hdrMagic : List Byte := [0x53, 0x46, 0x43, 0x43]

/-- The compression types whose header carries `npaddingbits` (30_encoding.md R112). -/
def hdrPads (comp : Nat) : Bool := comp == 2 || comp == 5 || comp == 6 || comp == 8

/-- The checks of fields 0 to 4, in file order (R343). -/
def hdrFieldChecks (ndims k dtype sfc comp : Nat) : Except Raised Unit := do
  check (!(decide (1 ≤ ndims) && decide (ndims ≤ 255))) ⟨.eHdrField, 0⟩
  check (!(decide (1 ≤ k) && decide (k ≤ 255))) ⟨.eHdrField, 1⟩
  check (!(dtype == 1 || dtype == 2 || dtype == 4)) ⟨.eHdrField, 2⟩
  check (!decide (sfc ≤ 4)) ⟨.eHdrField, 3⟩
  check (!decide (comp ≤ 9)) ⟨.eHdrField, 4⟩

/-- The check of field 5, `npaddingbits` (R343). -/
def hdrPadCheck (npad : Nat) : Except Raised Unit := check (!decide (npad ≤ 7)) ⟨.eHdrField, 5⟩

/-- The bytes of the header that `HDR` describes (R341, R344). -/
def hdrBytes (h : Word) : List Byte :=
  hdrMagic ++ [hdrNdims h, hdrK h, hdrDtype h, (hdrBt h ++ hdrSfc h : BitVec (1 + 7)), hdrComp h]
    ++ (if hdrPads (hdrComp h).toNat then [hdrNpad h] else [])

/-- `HDRP` (R344): of the common checks it runs step 4 only (20_memory.md R66). -/
def execHdrp (s : State) : Host.Outcome State Fault Refusal :=
  s.finishBulk s.checkOut (fun _ => do
    hdrFieldChecks (hdrNdims s.hdr).toNat (hdrK s.hdr).toNat (hdrDtype s.hdr).toNat (hdrSfc s.hdr).toNat
      (hdrComp s.hdr).toNat
    if hdrPads (hdrComp s.hdr).toNat then hdrPadCheck (hdrNpad s.hdr).toNat
    return plainResult (hdrBytes s.hdr))

/-- Byte `i` of a byte sequence, 0 past its end. -/
def byteAt (bs : List Byte) (i : Nat) : Byte := bs.getD i 0

/-- `HDR` from the bytes of a header (R346): its fields side by side, bits 63:48 zero; `NPAD` is 0 when absent. -/
def hdrOfBytes (b : List Byte) (npad : Byte) : Word :=
  (0#16 ++ npad ++ byteAt b 8 ++ byteAt b 7 ++ byteAt b 6 ++ byteAt b 5 ++ byteAt b 4 :
    BitVec (16 + 8 + 8 + 8 + 8 + 8 + 8))

/-- What `HDRU` reads from the bytes `b` when `len` bytes are available: the value of `HDR` and the bytes consumed
(R345, R346). -/
def hdrParse (len : Nat) (b : List Byte) : Except Raised (Word × Nat) := do
  check (decide (len < 9)) ⟨.eBlkLen, 9⟩
  check (!(b.take 4 == hdrMagic)) ⟨.eHdrMagic, leValue (b.take 4)⟩
  hdrFieldChecks (byteAt b 4).toNat (byteAt b 5).toNat (byteAt b 6).toNat ((byteAt b 7).toNat % 128)
    (byteAt b 8).toNat
  if hdrPads (byteAt b 8).toNat then
    check (decide (len < 10)) ⟨.eBlkLen, 10⟩
    hdrPadCheck (byteAt b 9).toNat
    return (hdrOfBytes b (byteAt b 9), 10)
  else
    return (hdrOfBytes b 0, 9)

/-- `HDRU` (R346): of the common checks it runs steps 2 and 3 (20_memory.md R66); it has no output region, so a fault
changes no byte of `MEM`. -/
def execHdru (s : State) : Host.Outcome State Fault Refusal :=
  match (do
    s.checkLen
    s.checkIn s.len.toNat
    hdrParse s.len.toNat (s.readBytes s.pa.toNat (min s.len.toNat 10)) : Except Raised (Word × Nat)) with
  | .error e => s.trap e
  | .ok (h, n) => .next { s with hdr := h, olen := 0, used := BitVec.ofNat 64 n }

/-! ### The stages (R354, R355) -/

/-- `deser`: bytes to elements (R355). -/
def deserialize (ew : Nat) (bytes : List Byte) : Except Raised (List Nat) :=
  if bytes.length % ew ≠ 0 then .error ⟨.eBlkAlign, bytes.length⟩
  else .ok (elements ew (bytes.length / ew) bytes)

/-- The BWT stage of `BLKC`: the elements and the primary index, none when the stage is off (R357). -/
def stageBwt (on : Bool) (xs : List Nat) : List Nat × Option Nat :=
  if on then ((bwtForward xs).1, some (bwtForward xs).2) else (xs, none)

/-- The MTF stage of `BLKC`: the elements, the minimum and the maximum, none when the stage is off (R357). -/
def stageMtf (on : Bool) (amax : Nat) (xs : List Nat) : Except Raised (List Nat × Option (Nat × Nat)) :=
  if on then
    match mtfEncode amax xs with
    | .error e => .error e
    | .ok c => .ok (c.1, some (c.2.1, c.2.2))
  else .ok (xs, none)

/-- The codec of `BLKC`: the payload and the padding count, none for a codec without one (R357). -/
def stageCodec (codec : Codec) (maxlen ew : Nat) (xs : List Nat) : Except Raised (List Byte × Option Nat) :=
  match codec with
  | .none => .ok (serialize ew xs, none)
  | .rle => .ok (rleEncode ew xs, none)
  | .huffman =>
    match hufEncode maxlen (serialize ew xs) with
    | .error e => .error e
    | .ok c => .ok (c.1, some c.2)
  | .lzw =>
    let c := lzwEncode (serialize ew xs)
    .ok (c.1, some c.2)

/-- The largest length or index that a 4-byte field of the block header holds (R353). -/
def blockFieldMax : Nat := 2 ^ 32 - 1

/-- The block header (R352). -/
def blockHeader (ew complen : Nat) (pad : Option Nat) (range : Option (Nat × Nat)) (p : Option Nat) : List Byte :=
  leBytes 4 complen
    ++ (match pad with
        | some n => [BitVec.ofNat 8 n]
        | none => [])
    ++ (match range with
        | some (mn, mx) => leBytes ew mn ++ leBytes ew mx
        | none => [])
    ++ (match p with
        | some n => leBytes 4 n
        | none => [])

/-- The block that `BLKC` computes from the elements `xs`, with the registers it writes (R357). -/
def blockCompress (bwt mtf : Bool) (codec : Codec) (amax maxlen ew : Nat) (xs : List Nat) :
    Except Raised BulkResult := do
  check (decide (blockFieldMax < xs.length * ew)) ⟨.eResource, xs.length⟩
  let (s1, p) := stageBwt bwt xs
  let (s2, range) ← stageMtf mtf amax s1
  let (pay, pad) ← stageCodec codec maxlen ew s2
  check (decide (blockFieldMax < pay.length)) ⟨.eResource, pay.length⟩
  return {
    out := blockHeader ew pay.length pad range p ++ pay
    used := none
    pidx := p
    vmin := range.map Prod.fst
    vmax := range.map Prod.snd
    padb := pad }

/-- `BLKC [BWT] [MTF] [codec]` (R357). A reserved codec field makes the word illegal (30_encoding.md R95, R96), so a term
that holds one raises `E_CMD` with its word; no decoded command does (notes/assumptions/9.md). -/
def execBlkc (bwt mtf : Bool) (codec : BitVec 3) (s : State) : Host.Outcome State Fault Refusal :=
  match codecOf codec with
  | none => s.trap ⟨.eCmd, (encode (.blkc bwt mtf codec)).toNat⟩
  | some c =>
    s.finishBulk (s.typedChecks s.typedBytes)
      (fun _ => blockCompress bwt mtf c s.cfg.mtfAmax s.cfg.hufMaxlen s.ew.toNat s.inElems)

/-- `hsize`, the size of the block header (R352). -/
def blockHeaderSize (bwt mtf : Bool) (codec : Codec) (ew : Nat) : Nat :=
  4 + (if codecPads codec then 1 else 0) + (if mtf then 2 * ew else 0) + (if bwt then 4 else 0)

/-- The fields of a block header; those the flags leave out read as 0 (R352). -/
structure BlockFields where
  /-- `complen`. -/
  complen : Nat
  /-- `padbits`. -/
  pad : Nat
  /-- `min`. -/
  mn : Nat
  /-- `max`. -/
  mx : Nat
  /-- `pidx`. -/
  p : Nat
  deriving DecidableEq, Repr

/-- The fields at the start of the bytes `b` (R352, R360). -/
def blockFields (bwt mtf : Bool) (codec : Codec) (ew : Nat) (b : List Byte) : BlockFields :=
  let padSize := if codecPads codec then 1 else 0
  let mtfSize := if mtf then ew else 0
  { complen := leValue (b.take 4)
    pad := leValue ((b.drop 4).take padSize)
    mn := leValue ((b.drop (4 + padSize)).take mtfSize)
    mx := leValue ((b.drop (4 + padSize + mtfSize)).take mtfSize)
    p := leValue ((b.drop (4 + padSize + 2 * mtfSize)).take (if bwt then 4 else 0)) }

/-- The codec of `BLKD`, from the payload back to elements (R360). -/
def unstageCodec (codec : Codec) (maxlen ew : Nat) (pay : List Byte) (pad : Nat) : Except Raised (List Nat) :=
  match codec with
  | .none => deserialize ew pay
  | .rle => rleDecode ew pay
  | .huffman => do
    let bytes ← hufDecode maxlen pay pad
    deserialize ew bytes
  | .lzw => do
    let bytes ← lzwDecode pay pad
    deserialize ew bytes

/-- The MTF stage of `BLKD`, with its range check (R360, R361). -/
def unstageMtf (on : Bool) (amax : Nat) (mn mx : Nat) (xs : List Nat) : Except Raised (List Nat) :=
  if on then do
    check (decide (mx < mn) || decide (amax < mx - mn + 1)) ⟨.eMtfAlphabet, mx⟩
    mtfDecode xs mn mx
  else .ok xs

/-- The BWT stage of `BLKD` (R360). -/
def unstageBwt (on : Bool) (p : Nat) (xs : List Nat) : Except Raised (List Nat) :=
  if on then bwtInverse xs p else .ok xs

/-- What `BLKD` computes from the bytes `b` at `PA`, with the registers it writes (R360). -/
def blockExpand (bwt mtf : Bool) (codec : Codec) (amax maxlen ew : Nat) (b : List Byte) :
    Except Raised BulkResult := do
  let hsize := blockHeaderSize bwt mtf codec ew
  check (decide (b.length < hsize)) ⟨.eBlkLen, hsize⟩
  let f := blockFields bwt mtf codec ew b
  check (decide (b.length < hsize + f.complen)) ⟨.eBlkLen, hsize + f.complen⟩
  let s1 ← unstageCodec codec maxlen ew ((b.drop hsize).take f.complen) f.pad
  let s2 ← unstageMtf mtf amax f.mn f.mx s1
  let s3 ← unstageBwt bwt f.p s2
  return {
    out := serialize ew s3
    used := some (hsize + f.complen)
    pidx := if bwt then some f.p else none
    vmin := if mtf then some f.mn else none
    vmax := if mtf then some f.mx else none
    padb := if codecPads codec then some f.pad else none }

/-- `BLKD [BWT] [MTF] [codec]` (R360). A reserved codec field is treated as in `execBlkc`. -/
def execBlkd (bwt mtf : Bool) (codec : BitVec 3) (s : State) : Host.Outcome State Fault Refusal :=
  match codecOf codec with
  | none => s.trap ⟨.eCmd, (encode (.blkd bwt mtf codec)).toNat⟩
  | some c =>
    s.finishBulk (s.typedChecks s.len.toNat)
      (fun _ => blockExpand bwt mtf c s.cfg.mtfAmax s.cfg.hufMaxlen s.ew.toNat s.inBytes)

end Sys2Proof.Machine
end

