-- ==== Sys2Proof/Machine/Interleave.lean ====
section
/-! DEFINITION. The interleave primitive and its commands `ISETUP`, `EXPAND`, `REMOVE` (42_interleave.md). -/

namespace Sys2Proof.Machine

/-- `v[j]`, bit `j` as a number (00_scope.md R13). -/
def bitAt (v j : Nat) : Nat := (v.testBit j).toNat

/-- `mask(i, N, B)`: the bits of the distance word that belong to dimension `i` (R181). -/
def mask (i n : Nat) : Nat → Nat
  | 0 => 0
  | b + 1 => mask i n b + 2 ^ (b * n + i)

/-- `expand(v, i, N, B)`: bit `j` of `v` goes to bit `j*N + i`, for `j < B` (R184). -/
def expand (v i n : Nat) : Nat → Nat
  | 0 => 0
  | b + 1 => expand v i n b + bitAt v b * 2 ^ (b * n + i)

/-- `remove(d, i, N, B)`: bit `j*N + i` of `d` goes to bit `j`, for `j < B` (R186). -/
def remove (d i n : Nat) : Nat → Nat
  | 0 => 0
  | b + 1 => remove d i n b + bitAt d (b * n + i) * 2 ^ b

/-- `deposit(v, M)` over the bit positions `p .. p + w - 1`, `k` being the next bit of `v` (R188). -/
def depositFrom (v m k p : Nat) : Nat → Nat
  | 0 => 0
  | w + 1 =>
    if m.testBit p then bitAt v k * 2 ^ p + depositFrom v m (k + 1) (p + 1) w
    else depositFrom v m k (p + 1) w

/-- `deposit(v, M)` (R188). -/
def deposit (v m : Nat) : Nat := depositFrom v m 0 0 Config.dw

/-- `extract(d, M)` over the bit positions `p .. p + w - 1`, `k` being the next bit of the result (R188). -/
def extractFrom (d m k p : Nat) : Nat → Nat
  | 0 => 0
  | w + 1 =>
    if m.testBit p then bitAt d p * 2 ^ k + extractFrom d m (k + 1) (p + 1) w
    else extractFrom d m k (p + 1) w

/-- `extract(d, M)` (R188). -/
def extract (d m : Nat) : Nat := extractFrom d m 0 0 Config.dw

/-- The checks of `ISETUP` and the configuration it constructs (R182, R183). -/
def isetupConfig (n b : Nat) : Except Raised Icfg := do
  check (decide (n = 0) || decide (Config.nMax < n)) ⟨.eNdims, n⟩
  check (decide (b = 0) || decide (Config.cw < b)) ⟨.eIlvWidth, b⟩
  check (decide (Config.dw < n * b)) ⟨.eIlvWidth, n * b⟩
  return { valid := true, n := BitVec.ofNat 8 n, b := BitVec.ofNat 8 b }

/-- `ISETUP r<rs1>, r<rs2>` (R183). -/
def execIsetup (rs1 rs2 : RegIx) (s : State) : Host.Outcome State Fault Refusal :=
  match isetupConfig (s.reg rs1).toNat (s.reg rs2).toNat with
  | .error e => s.trap e
  | .ok k => .next { s with icfg := k }

/-- The checks of `EXPAND` and `REMOVE` (R185, R187). -/
def State.checkInterleaver (s : State) (dim : BitVec 8) : Except Raised Icfg := do
  check (!s.icfg.valid) ⟨.eNotConstructed, 2⟩
  check (decide (s.icfg.n.toNat ≤ dim.toNat)) ⟨.eDimIndex, dim.toNat⟩
  return s.icfg

/-- `EXPAND r<rd>, r<rs1>, <dim>` (R185). -/
def execExpand (rd rs1 : RegIx) (dim : BitVec 8) (s : State) : Host.Outcome State Fault Refusal :=
  match s.checkInterleaver dim with
  | .error e => s.trap e
  | .ok k => .next (s.setReg rd (BitVec.ofNat 64 (expand (s.reg rs1).toNat dim.toNat k.n.toNat k.b.toNat)))

/-- `REMOVE r<rd>, r<rs1>, <dim>` (R187). -/
def execRemove (rd rs1 : RegIx) (dim : BitVec 8) (s : State) : Host.Outcome State Fault Refusal :=
  match s.checkInterleaver dim with
  | .error e => s.trap e
  | .ok k => .next (s.setReg rd (BitVec.ofNat 64 (remove (s.reg rs1).toNat dim.toNat k.n.toNat k.b.toNat)))

end Sys2Proof.Machine
end

