-- ==== Sys2Proof/Machine/Curve.lean ====
section
/-! DEFINITION. The four curves and the commands `CSETUP`, `CCLONE`, `C2D`, `D2C` (41_curve.md). -/

namespace Sys2Proof.Machine

/-! ### Row-major (R152) -/

/-- The sum of `x[j] * L^(i+j)` over the coordinates from dimension `i` on (R152). -/
def rowMajorDistFrom (l : Nat) : Nat → List Nat → Nat
  | _, [] => 0
  | i, x :: xs => x * l ^ i + rowMajorDistFrom l (i + 1) xs

/-- `coordsToDist_0` (R152). -/
def rowMajorDist (xs : List Nat) (l : Nat) : Nat := rowMajorDistFrom l 0 xs

/-- `distToCoords_0`: `v[i] = (d // L^i) mod L` (R152). -/
def rowMajorCoords (d n l : Nat) : List Nat := (List.range n).map (fun i => d / l ^ i % l)

/-! ### Morton (R153) -/

/-- The OR of the expanded coordinates from dimension `i` on (R153). -/
def mortonDistFrom (n b : Nat) : Nat → List Nat → Nat
  | _, [] => 0
  | i, x :: xs => expand x i n b ||| mortonDistFrom n b (i + 1) xs

/-- `coordsToDist_2`, with the curve's own `B = log2(L)` (R153). -/
def mortonDist (xs : List Nat) (n l : Nat) : Nat := mortonDistFrom n l.log2 0 xs

/-- `distToCoords_2` (R153). -/
def mortonCoords (d n l : Nat) : List Nat := (List.range n).map (fun i => remove d i n l.log2)

/-! ### Gray (R154, R155) -/

/-- `gray_fold(m) = m XOR (m >> 1)` (R154). -/
def grayFold (m : Nat) : Nat := m ^^^ (m >>> 1)

/-- `gray_unfold(g)`: the cascade of shifts 1, 2, 4, .., below `DW` (R154). -/
def grayUnfold (g : Nat) : Nat := [1, 2, 4, 8, 16, 32].foldl (fun m k => m ^^^ (m >>> k)) g

/-! ### Hilbert (R156 to R158) -/

/-- The rotation step `rot(n, x, y, rx, ry)` (R156). -/
def hilbertRot (n x y rx ry : Nat) : Nat × Nat :=
  if ry = 0 then
    if rx = 1 then (n - 1 - y, n - 1 - x) else (y, x)
  else (x, y)

/-- The encoding loop over the bit-planes `s = 2^(k-1), .., 2, 1` (R157). -/
def hilbertDistLoop (l : Nat) : Nat → Nat → Nat → Nat
  | 0, _, _ => 0
  | k + 1, x, y =>
    let s := 2 ^ k
    let rx := bitAt x k
    let ry := bitAt y k
    let p := hilbertRot l x y rx ry
    s * s * ((3 * rx) ^^^ ry) + hilbertDistLoop l k p.1 p.2

/-- `coordsToDist_4` (R157). -/
def hilbertDist (xs : List Nat) (l : Nat) : Nat :=
  hilbertDistLoop l l.log2 (xs.getD 0 0) (xs.getD 1 0)

/-- The decoding loop: `k` planes are left, the next is `s`, and `t` holds the distance bits not yet peeled (R158). -/
def hilbertCoordsLoop : Nat → Nat → Nat → Nat → Nat → Nat × Nat
  | 0, _, _, x, y => (x, y)
  | k + 1, s, t, x, y =>
    let rx := t / 2 % 2
    let ry := (t ^^^ rx) % 2
    let p := hilbertRot s x y rx ry
    hilbertCoordsLoop k (2 * s) (t / 4) (p.1 + s * rx) (p.2 + s * ry)

/-- `distToCoords_4` (R158). -/
def hilbertCoords (d l : Nat) : List Nat :=
  let p := hilbertCoordsLoop l.log2 1 d 0 0
  [p.1, p.2]

/-! ### The curve contract (R140) -/

/-- `coordsToDist` of a curve (R140). -/
def coordsToDist (type : CurveType) (xs : List Nat) (n l : Nat) : Nat :=
  match type with
  | .rowMajor => rowMajorDist xs l
  | .morton => mortonDist xs n l
  | .gray => grayFold (mortonDist xs n l)
  | .hilbert => hilbertDist xs l

/-- `distToCoords` of a curve (R140). -/
def distToCoords (type : CurveType) (d n l : Nat) : List Nat :=
  match type with
  | .rowMajor => rowMajorCoords d n l
  | .morton => mortonCoords d n l
  | .gray => mortonCoords (grayUnfold d) n l
  | .hilbert => hilbertCoords d l

/-! ### Construction (R141 to R148) -/

/-- A power of two (R144). -/
def isPowerOfTwo (l : Nat) : Bool := decide (2 ^ l.log2 = l)

/-- `max_interleave_dim_length(N, DistBits, CoordBits)` (00_scope.md R11). -/
def maxInterleaveDimLength (n distBits coordBits : Nat) : Nat := 2 ^ min coordBits (distBits / n)

/-- Whether a variant needs a power-of-two extent (R144). -/
def needsPowerOfTwo : CurveType → Bool
  | .rowMajor => false
  | .morton => true
  | .gray => true
  | .hilbert => true

/-- Whether a variant is built on the interleaver (R145). -/
def usesInterleave : CurveType → Bool
  | .rowMajor => false
  | .morton => true
  | .gray => true
  | .hilbert => false

/-- The checks of `CSETUP` on a supported type, and the slot it constructs (R141 steps 2 to 6). -/
def csetupChecks (t : CurveType) (n l : Nat) : Except Raised CurveSlot := do
  check (decide (n = 0) || decide (Config.nMax < n)) ⟨.eNdims, n⟩
  check (decide (t = .hilbert) && decide (n ≠ 2)) ⟨.eNdims, n⟩
  check (decide (l ≤ 1) || decide (2 ^ Config.cw < l)) ⟨.eExtent, l⟩
  check (needsPowerOfTwo t && !isPowerOfTwo l) ⟨.eExtent, l⟩
  check (usesInterleave t && decide (maxInterleaveDimLength n Config.dw Config.cw < l)) ⟨.eIlvWidth, n⟩
  check (decide (2 ^ Config.dw ≤ l ^ n)) ⟨.eTotalOverflow, n⟩
  return { valid := true, type := t, n := BitVec.ofNat 8 n, l := BitVec.ofNat 40 l }

/-- The whole construction, the type first (R141 step 1, R143). -/
def csetupSlot (type : BitVec 3) (n l : Nat) : Except Raised CurveSlot :=
  match curveTypeOf type with
  | none => .error ⟨.eCurveType, type.toNat⟩
  | some t => csetupChecks t n l

/-- `CSETUP s<slot>, <TYPE>, r<rs1>, r<rs2>` (R141). -/
def execCsetup (slot : SlotId) (type : BitVec 3) (rs1 rs2 : RegIx) (s : State) :
    Host.Outcome State Fault Refusal :=
  match csetupSlot type (s.reg rs1).toNat (s.reg rs2).toNat with
  | .error e => s.trap e
  | .ok k => .next (s.setSlot slot k)

/-- `CCLONE s<dst>, s<src>` (R148). -/
def execCclone (dst src : SlotId) (s : State) : Host.Outcome State Fault Refusal :=
  match s.checkSlot src with
  | .error e => s.trap e
  | .ok k => .next (s.setSlot dst k)

/-! ### Conversion (R150, R151) -/

/-- The distance `C2D` computes, or its fault: the lowest coordinate outside the curve (R150). -/
def c2dDist (k : CurveSlot) (xs : List Nat) : Except Raised Nat :=
  match xs.findIdx? (fun x => decide (k.l.toNat ≤ x)) with
  | some i => .error ⟨.eCoordRange, i⟩
  | none => .ok (coordsToDist k.type xs k.n.toNat k.l.toNat)

/-- `C2D r<rd>, s<slot>` (R150). -/
def execC2d (rd : RegIx) (slot : SlotId) (s : State) : Host.Outcome State Fault Refusal :=
  match s.checkSlot slot with
  | .error e => s.trap e
  | .ok k =>
    match c2dDist k (s.coordList k.n.toNat) with
    | .error e => s.trap e
    | .ok d => .next (s.setReg rd (BitVec.ofNat 64 d))

/-- `D2C r<rs1>, s<slot>` (R151). -/
def execD2c (rs1 : RegIx) (slot : SlotId) (s : State) : Host.Outcome State Fault Refusal :=
  match s.checkSlot slot with
  | .error e => s.trap e
  | .ok k =>
    if slotTotal k ≤ (s.reg rs1).toNat then s.trap ⟨.eDistRange, (s.reg rs1).toNat⟩
    else .next (s.setCoords (distToCoords k.type (s.reg rs1).toNat k.n.toNat k.l.toNat))

end Sys2Proof.Machine
end

