-- ==== Sys2Proof/Machine/Reorder.lean ====
section
/-! DEFINITION. The reorderer: `REORDI` by cycle following and `REORDT` with a temporary (43_reorder.md). Each is the
spec's own pseudocode on the elements of the region; that the two agree (R207) is a statement, not a definition. -/

namespace Sys2Proof.Machine

/-- `pi(i)`: the index on curve `t` of the cell at index `i` on curve `f` (R201). -/
def reorderTarget (f t : CurveSlot) (i : Nat) : Nat :=
  coordsToDist t.type (distToCoords f.type i f.n.toNat f.l.toNat) t.n.toNat t.l.toNat

/-- `ReorderChecks(f, t)`: the two slots, once every check has passed (R202). -/
def State.reorderChecks (s : State) (f t : SlotId) : Except Raised (CurveSlot × CurveSlot) := do
  s.checkEw
  s.checkLen
  s.checkIn s.typedBytes
  let cf ← s.checkSlot f
  let ct ← s.checkSlot t
  check (!(cf.n == ct.n && cf.l == ct.l)) ⟨.eReordMismatch, slotNumber t⟩
  check (!(s.len.toNat == slotTotal cf)) ⟨.eReordLen, s.len.toNat⟩
  return (cf, ct)

/-- One cycle, from `cur` with the value `carry` picked up there, until it closes at `start` (R204, the inner loop). A cycle
of a permutation of `len` indices closes within `len` turns, which is the fuel. -/
def followCycle (pi : Nat → Nat) (len start : Nat) :
    Nat → Nat → Nat → List Nat × List Bool → Except Raised (List Nat × List Bool)
  | 0, _, _, d => .ok d
  | fuel + 1, cur, carry, (data, visited) =>
    let tgt := pi cur
    if len ≤ tgt then .error ⟨.eReordTarget, tgt⟩
    else
      let next := (data.set tgt carry, visited.set tgt true)
      if tgt = start then .ok next
      else followCycle pi len start fuel tgt (data.getD tgt 0) next

/-- The outer loop of cycle following over the start indices `starts` (R204). -/
def followCycles (pi : Nat → Nat) (len : Nat) :
    List Nat → List Nat × List Bool → Except Raised (List Nat × List Bool)
  | [], d => .ok d
  | start :: starts, (data, visited) =>
    if visited.getD start false then followCycles pi len starts (data, visited)
    else
      match followCycle pi len start len start (data.getD start 0) (data, visited) with
      | .error e => .error e
      | .ok d => followCycles pi len starts d

/-- `CycleFollow` on the elements of the region (R204). -/
def cycleFollow (pi : Nat → Nat) (data : List Nat) : Except Raised (List Nat) :=
  match followCycles pi data.length (List.range data.length) (data, List.replicate data.length false) with
  | .error e => .error e
  | .ok d => .ok d.1

/-- `temp[pi(i)] = data[i]` for the elements from index `i` on (R206). -/
def scatterFrom (pi : Nat → Nat) (len : Nat) : Nat → List Nat → List Nat → Except Raised (List Nat)
  | _, [], temp => .ok temp
  | i, x :: xs, temp =>
    if len ≤ pi i then .error ⟨.eReordTarget, pi i⟩
    else scatterFrom pi len (i + 1) xs (temp.set (pi i) x)

/-- The reordering with a second buffer (R206). -/
def scatter (pi : Nat → Nat) (data : List Nat) : Except Raised (List Nat) :=
  scatterFrom pi data.length 0 data (List.replicate data.length 0)

/-- The end of a reorder command: the elements go back to `PA` and `OLEN` is 0 (R203, R206); a fault changes no byte of
`MEM` (R205). -/
def State.finishReorder (s : State) (result : Except Raised (List Nat)) : Host.Outcome State Fault Refusal :=
  match result with
  | .error e => s.trap e
  | .ok xs => .next { s.writeBytes s.pa.toNat (serialize s.ew.toNat xs) with olen := 0 }

/-- `REORDI s<from>, s<to>` (R203). -/
def execReordi (src dst : SlotId) (s : State) : Host.Outcome State Fault Refusal :=
  s.finishReorder (do
    let c ← s.reorderChecks src dst
    cycleFollow (reorderTarget c.1 c.2) s.inElems)

/-- `REORDT s<from>, s<to>` (R206). -/
def execReordt (src dst : SlotId) (s : State) : Host.Outcome State Fault Refusal :=
  s.finishReorder (do
    let c ← s.reorderChecks src dst
    scatter (reorderTarget c.1 c.2) s.inElems)

end Sys2Proof.Machine
end

