-- ==== Sys2Proof/Machine/System.lean ====
section
/-! DEFINITION. The system commands `NOP` and `CLRERR` (40_system.md R123, R124). -/

namespace Sys2Proof.Machine

/-- `NOP` (R123): leaves every register and every byte of `MEM` unchanged. -/
def execNop (s : State) : Host.Outcome State Fault Refusal := .next s

/-- `CLRERR` (R124). -/
def execClrerr (s : State) : Host.Outcome State Fault Refusal := .next s.clearErr

end Sys2Proof.Machine
end

