-- ==== Sys2Proof/Machine/Dispatch.lean ====
section
/-! DEFINITION. One arm per command, each one direct call of its meaning. -/

namespace Sys2Proof.Machine

def exec (i : Instr) (s : State) : Host.Outcome State Fault Refusal :=
  match i with
  | .nop => Sys2Proof.Machine.execNop s
  | .clrerr => Sys2Proof.Machine.execClrerr s
  | .csetup slot type rs1 rs2 => Sys2Proof.Machine.execCsetup slot type rs1 rs2 s
  | .cclone dst src => Sys2Proof.Machine.execCclone dst src s
  | .isetup rs1 rs2 => Sys2Proof.Machine.execIsetup rs1 rs2 s
  | .expand rd rs1 dim => Sys2Proof.Machine.execExpand rd rs1 dim s
  | .remove rd rs1 dim => Sys2Proof.Machine.execRemove rd rs1 dim s
  | .c2d rd slot => Sys2Proof.Machine.execC2d rd slot s
  | .d2c rs1 slot => Sys2Proof.Machine.execD2c rs1 slot s
  | .reordi src dst => Sys2Proof.Machine.execReordi src dst s
  | .reordt src dst => Sys2Proof.Machine.execReordt src dst s
  | .bwtf => Sys2Proof.Machine.execBwtf s
  | .bwti => Sys2Proof.Machine.execBwti s
  | .mtfe => Sys2Proof.Machine.execMtfe s
  | .mtfd => Sys2Proof.Machine.execMtfd s
  | .hufe => Sys2Proof.Machine.execHufe s
  | .hufd => Sys2Proof.Machine.execHufd s
  | .lzwe => Sys2Proof.Machine.execLzwe s
  | .lzwd => Sys2Proof.Machine.execLzwd s
  | .rlee => Sys2Proof.Machine.execRlee s
  | .rled => Sys2Proof.Machine.execRled s
  | .hdrp => Sys2Proof.Machine.execHdrp s
  | .hdru => Sys2Proof.Machine.execHdru s
  | .blkc bwt mtf codec => Sys2Proof.Machine.execBlkc bwt mtf codec s
  | .blkd bwt mtf codec => Sys2Proof.Machine.execBlkd bwt mtf codec s

end Sys2Proof.Machine
end

