-- ==== Sys2Proof/Machine/Flags.lean ====
section
/-! DEFINITION. The registers the host reads as packed words: `STATUS` with all its flags (10_state.md R28), `ICFG` (R30)
and the curve slots (R31). `STATUS.IV`, `CV0` and `CV1` are copies, so they are computed here and stored nowhere else.
The SFCU has no other flag (R28). -/

namespace Sys2Proof.Machine

/-- `STATUS` as the host reads it (R28). -/
def State.status (s : State) : Word :=
  BitVec.ofNat 64
    (s.busy.toNat + 2 * s.err.toNat + 4 * s.icfg.valid.toNat + 8 * s.curve0.valid.toNat
      + 16 * s.curve1.valid.toNat)

/-- The number of a curve type (30_encoding.md R110). -/
def curveTypeNumber : CurveType → Nat
  | .rowMajor => 0
  | .morton => 2
  | .gray => 3
  | .hilbert => 4

/-- `ICFG` as the host reads it (R30). -/
def icfgWord (k : Icfg) : Word :=
  BitVec.ofNat 64 (k.valid.toNat + 2 ^ 8 * k.n.toNat + 2 ^ 16 * k.b.toNat)

/-- A curve slot register as the host reads it (R31). -/
def slotWord (k : CurveSlot) : Word :=
  BitVec.ofNat 64
    (k.valid.toNat + 2 * curveTypeNumber k.type + 2 ^ 8 * k.n.toNat + 2 ^ 16 * k.l.toNat)

end Sys2Proof.Machine
end

