-- ==== Sys2Proof/Machine/HostOps.lean ====
section
/-! DEFINITION. The six host operations and the acceptance of a command word (40_system.md R120, R121; 10_state.md R21,
R25 to R29; 20_memory.md R62; 70_reset_and_hazards.md R420). -/

namespace Sys2Proof.Machine

/-- Acceptance of a command: `BUSY` is 1 while its rule runs and 0 once it has completed (40_system.md R121). The host sees
none of the states between (10_state.md R21), so this is one step (notes/assumptions/2.md). -/
def accept (i : Instr) (s : State) : Host.Outcome State Fault Refusal :=
  match exec i { s with busy := true } with
  | .next t => .next { t with busy := false }
  | .fault f => .fault f
  | .refused q => .refused q

/-- `Issue(w)` (R121): while a fault is recorded every word but that of `CLRERR` is dropped; otherwise an illegal word raises
`E_CMD(w)` (60_exceptions.md R384) and a legal one is accepted. -/
def issue (w : CmdWord) (s : State) : Host.Outcome State Fault Refusal :=
  if s.err then
    if w = 0x00000001#32 then accept .clrerr s else .next s
  else
    match decode w with
    | .error _ => s.trap ⟨.eCmd, w.toNat⟩
    | .ok i => accept i s

/-- What a host read of a register returns (10_state.md R25, R26): coordinate registers zero-extended (R23), `CMD`, being
write-only, and numbers without a register 0. -/
def State.readRegister (s : State) (n : RegNum) : Word :=
  match regName n with
  | some (.r i) => s.reg i
  | some (.c i) => (s.coord i.toNat).setWidth 64
  | some .cmd => 0
  | some .status => s.status
  | some .errcode => s.errcode.setWidth 64
  | some .errinfo => s.errinfo
  | some .icfg => icfgWord s.icfg
  | some .curve0 => slotWord s.curve0
  | some .curve1 => slotWord s.curve1
  | some .pa => s.pa
  | some .pb => s.pb
  | some .len => s.len
  | some .cap => s.cap
  | some .olen => s.olen
  | some .used => s.used
  | some .pidx => s.pidx
  | some .vmin => s.vmin
  | some .vmax => s.vmax
  | some .padb => s.padb
  | some .ew => s.ew
  | some .hdr => s.hdr
  | none => 0

/-- A host write of a register that stores (10_state.md R25, R26): a coordinate register keeps the low `CW` bits (R23); a
read-only register and a number without a register ignore it. `CMD` stores nothing. -/
def State.writeRegister (s : State) (n : RegNum) (v : Word) : State :=
  match regName n with
  | some (.r i) => s.setReg i v
  | some (.c i) => { s with coords := s.coords.set i.toNat (v.setWidth 32) i.isLt }
  | some .cmd => s
  | some .status => s
  | some .errcode => s
  | some .errinfo => s
  | some .icfg => s
  | some .curve0 => s
  | some .curve1 => s
  | some .pa => { s with pa := v }
  | some .pb => { s with pb := v }
  | some .len => { s with len := v }
  | some .cap => { s with cap := v }
  | some .olen => s
  | some .used => s
  | some .pidx => { s with pidx := v }
  | some .vmin => { s with vmin := v }
  | some .vmax => { s with vmax := v }
  | some .padb => { s with padb := v }
  | some .ew => { s with ew := v }
  | some .hdr => { s with hdr := v }
  | none => s

/-- `HostWriteReg(n, v)`: a write of `CMD` issues bits 31:0 of the value (10_state.md R27). -/
def hostWriteReg (n : RegNum) (v : Word) (s : State) : Host.Outcome State Fault Refusal :=
  if n = 0x100#12 then issue (v.setWidth 32) s else .next (s.writeRegister n v)

/-- `HostWriteMem(a, n, v)` (20_memory.md R62): an access any byte of which lies at or above `MEMSZ` is dropped whole. -/
def State.hostWriteMem (s : State) (a : Nat) (n : AccessSize) (v : Word) : State :=
  if s.cfg.memSz < a + accessBytes n then s
  else s.writeBytes a (leBytes (accessBytes n) v.toNat)

/-- The value `HostReadMem(a, n)` returns, 0 for a dropped access (20_memory.md R62). -/
def State.hostReadMem (s : State) (a : Nat) (n : AccessSize) : Word :=
  if s.cfg.memSz < a + accessBytes n then 0
  else BitVec.ofNat 64 (leValue (s.readBytes a (accessBytes n)))

/-- `HostReset` (70_reset_and_hazards.md R420): every register takes its reset value (10_state.md R44). `MEM` is not written,
and the instance, the program and what the host has read are the host's. -/
def State.hostReset (s : State) : State :=
  { State.reset with cfg := s.cfg, mem := s.mem, drawn := s.drawn, host := s.host, answers := s.answers }

/-- The host has read the value `v`. -/
def State.answer (s : State) (v : Word) : State := { s with answers := v :: s.answers }

/-- One host operation at an idle SFCU (R120). -/
def hostOp (op : HostOp) (s : State) : Host.Outcome State Fault Refusal :=
  match op with
  | .writeReg n v => hostWriteReg n v s
  | .readReg n => .next (s.answer (s.readRegister n))
  | .writeMem a n v => .next (s.hostWriteMem a n v)
  | .readMem a n => .next (s.answer (s.hostReadMem a n))
  | .issue w => issue w s
  | .reset => .next s.hostReset

/-- One host operation while `BUSY` is 1 (10_state.md R21): a read of `STATUS` returns at once, anything else is held off
(notes/assumptions/2.md). -/
def hostOpBusy (op : HostOp) (s : State) : Host.Outcome State Fault Refusal :=
  if op = .readReg 0x101#12 then .next (s.answer s.status) else .fault .heldOff

/-- The next host operation, if there is one; with none the SFCU is idle (R120, 60_exceptions.md R393). -/
def hostStep (s : State) : Host.Outcome State Fault Refusal :=
  match s.host with
  | [] => .next s
  | op :: rest =>
    if s.busy then hostOpBusy op { s with host := rest } else hostOp op { s with host := rest }

end Sys2Proof.Machine
end

