-- ==== Sys2Proof/Machine/Step.lean ====
section
/-! DEFINITION. One step of the machine: the next host operation of the program, a command being one step
(70_reset_and_hazards.md R429), and the placing of one command word for the step to run. -/

namespace Sys2Proof.Machine

/-- One step (40_system.md R120, R121). -/
def step (s : State) : Host.Outcome State Fault Refusal := hostStep s

/-- `s` with the issue of a command word as the next host operation, so that the very next step runs that command
(notes/assumptions/1.md). -/
def State.withFetchWord (s : State) (nbits w : Nat) : State :=
  { s with host := .issue (tableWord nbits w) :: s.host }

end Sys2Proof.Machine
end

