-- ==== Sys2Proof/Safety.lean ====
section
/-! DEFINITION. The terms in which statements speak of the machine: legal words and configurations, the invariant that
every step keeps, which host operation issues a command, what each command reads and may write, when the common checks
pass, and what it means that a command delivered its result or faulted. They are written from the spec's tables and
not from the meanings. -/

namespace Sys2Proof.Machine

/-- A configuration pair the interleaver accepts (42_interleave.md R182). -/
def LegalInterleave (n b : Nat) : Prop := 1 ≤ n ∧ n ≤ 64 ∧ 1 ≤ b ∧ b ≤ 32 ∧ n * b ≤ 64

/-- Parameters a curve can be constructed with (41_curve.md R142 to R146): the dimension count, the extent, a power of two
where the variant needs one, the interleave width and the total size. -/
def LegalCurve (t : CurveType) (n l : Nat) : Prop :=
  1 ≤ n ∧ n ≤ 64 ∧ (t = .hilbert → n = 2) ∧ 1 < l ∧ l ≤ 2 ^ 32
    ∧ (t ≠ .rowMajor → ∃ k, l = 2 ^ k)
    ∧ (t = .morton ∨ t = .gray → ∀ k, l = 2 ^ k → n * k ≤ 64)
    ∧ l ^ n < 2 ^ 64

/-- A slot register that is not valid, or whose fields satisfy every construction check (10_state.md R31). -/
def SlotOk (k : CurveSlot) : Prop := k.valid = true → LegalCurve k.type k.n.toNat k.l.toNat

/-- `ICFG` is not valid, or its fields are a legal configuration (10_state.md R30). -/
def IcfgOk (k : Icfg) : Prop := k.valid = true → LegalInterleave k.n.toNat k.b.toNat

/-- What holds of the state between any two steps. -/
structure State.Inv (s : State) : Prop where
  /-- The parameters are those of an instance (00_scope.md R10). -/
  cfg : s.cfg.wf
  /-- The memory is in its canonical form. -/
  memWf : s.mem.wf
  /-- `MEM` has the addresses `0 .. MEMSZ-1` (20_memory.md R60). -/
  memRange : ∀ x ∈ s.mem, x.1 < s.cfg.memSz
  /-- Every region a fault has left unspecified is a region of `MEM`, and not empty. -/
  drawnRange : ∀ x ∈ s.drawn, 0 < x.2 ∧ x.1 + x.2 ≤ s.cfg.memSz
  /-- No command is in progress (10_state.md R21). -/
  idle : s.busy = false
  /-- `ERRCODE` and `ERRINFO` are 0 when no fault is recorded (10_state.md R29). -/
  noFault : s.err = false → s.errcode = 0 ∧ s.errinfo = 0
  /-- A recorded fault has a code of the table (60_exceptions.md R385). -/
  faultCode : s.err = true → ∃ e, s.errcode = errNumber e
  /-- 10_state.md R30. -/
  icfg : IcfgOk s.icfg
  /-- 10_state.md R31. -/
  curve0 : SlotOk s.curve0
  /-- 10_state.md R31. -/
  curve1 : SlotOk s.curve1

/-- `EW` holds a legal element width (10_state.md R40). -/
def State.EwLegal (s : State) : Prop := s.ew.toNat = 1 ∨ s.ew.toNat = 2 ∨ s.ew.toNat = 4

/-- Steps 2 and 3 of the common checks pass for an input region of `inbytes` bytes (20_memory.md R66). -/
def State.InputReady (s : State) (inbytes : Nat) : Prop :=
  s.len.toNat ≤ s.cfg.maxElems ∧ s.pa.toNat + inbytes ≤ s.cfg.memSz

/-- Step 4 passes (20_memory.md R66). -/
def State.OutputReady (s : State) : Prop := s.pb.toNat + s.cap.toNat ≤ s.cfg.memSz

/-- No byte lies both in the input region and in the output region (20_memory.md R66 step 5). -/
def State.Disjoint (s : State) (inbytes : Nat) : Prop :=
  ∀ a, ¬ ((s.pa.toNat ≤ a ∧ a < s.pa.toNat + inbytes) ∧ (s.pb.toNat ≤ a ∧ a < s.pb.toNat + s.cap.toNat))

/-- Every common check of a command with two regions that does not use `EW` passes (20_memory.md R66). -/
def State.ByteReady (s : State) (inbytes : Nat) : Prop :=
  s.InputReady inbytes ∧ s.OutputReady ∧ s.Disjoint inbytes

/-- Every common check of a command with two regions that uses `EW` passes (20_memory.md R66). -/
def State.TypedReady (s : State) (inbytes : Nat) : Prop := s.EwLegal ∧ s.ByteReady inbytes

/-- The two states agree in everything but `MEM` and the result registers `OLEN`, `USED`, `PIDX`, `VMIN`, `VMAX`, `PADB`. -/
def SameBesidesResults (s t : State) : Prop :=
  { t with mem := s.mem, olen := s.olen, used := s.used, pidx := s.pidx, vmin := s.vmin, vmax := s.vmax,
           padb := s.padb } = s

/-- `t` is `s` after a bulk command delivered `b` (20_memory.md R68, 10_state.md R43): the bytes stand at `PB`, every other
byte of `MEM` reads as before, `OLEN` is the number of bytes, the result registers the command writes hold its values and
the others are unchanged, as is everything else. -/
def Delivered (s t : State) (b : BulkResult) : Prop :=
  (∀ a, t.readByte a =
      if s.pb.toNat ≤ a ∧ a < s.pb.toNat + b.out.length then b.out.getD (a - s.pb.toNat) 0 else s.readByte a)
    ∧ t.olen = BitVec.ofNat 64 b.out.length
    ∧ t.used = (b.used.map (BitVec.ofNat 64)).getD s.used
    ∧ t.pidx = (b.pidx.map (BitVec.ofNat 64)).getD s.pidx
    ∧ t.vmin = (b.vmin.map (BitVec.ofNat 64)).getD s.vmin
    ∧ t.vmax = (b.vmax.map (BitVec.ofNat 64)).getD s.vmax
    ∧ t.padb = (b.padb.map (BitVec.ofNat 64)).getD s.padb
    ∧ SameBesidesResults s t

/-- The two states agree in every register but `STATUS.ERR`, `STATUS.BUSY`, `ERRCODE` and `ERRINFO`, in the parameters and in
what is the host's; nothing is said of `MEM`. -/
def SameBesidesFault (s t : State) : Prop :=
  { t with mem := s.mem, drawn := s.drawn, err := s.err, busy := s.busy, errcode := s.errcode,
           errinfo := s.errinfo } = s

/-- `t` is `s` after a command faulted with `e` and left `MEM` as it was (60_exceptions.md R382, R383). -/
def Trapped (s t : State) (e : Raised) : Prop :=
  t.err = true ∧ t.busy = false ∧ t.errcode = errNumber e.code ∧ t.errinfo = BitVec.ofNat 64 e.info
    ∧ t.mem = s.mem ∧ t.drawn = s.drawn ∧ SameBesidesFault s t

/-- `t` is `s` after a bulk command faulted with `e` once the common checks had passed (20_memory.md R69): the bytes outside
the output region read as before, those inside are free. -/
def TrappedLosingOutput (s t : State) (e : Raised) : Prop :=
  t.err = true ∧ t.busy = false ∧ t.errcode = errNumber e.code ∧ t.errinfo = BitVec.ofNat 64 e.info
    ∧ (∀ a, ¬ (s.pb.toNat ≤ a ∧ a < s.pb.toNat + s.cap.toNat) → t.readByte a = s.readByte a)
    ∧ SameBesidesFault s t

/-! ### Memory and frames -/

/-- Every byte of `MEM` reads the same. -/
def SameMemory (s t : State) : Prop := ∀ a, t.readByte a = s.readByte a

/-- The two states agree in everything but the operand registers. -/
def SameBesidesRegs (s t : State) : Prop := { t with r := s.r } = s

/-- The two states agree in everything but the coordinate registers. -/
def SameBesidesCoords (s t : State) : Prop := { t with coords := s.coords } = s

/-- The two states agree in everything but the curve slots. -/
def SameBesidesSlots (s t : State) : Prop := { t with curve0 := s.curve0, curve1 := s.curve1 } = s

/-- The two states agree in everything but `ICFG`. -/
def SameBesidesIcfg (s t : State) : Prop := { t with icfg := s.icfg } = s

/-- The two states agree in everything but `MEM` and `OLEN`. -/
def SameBesidesMemOlen (s t : State) : Prop := { t with mem := s.mem, olen := s.olen } = s

/-- Element `i` of the region at `base`, of `ew` bytes (`ElemRead`, 00_scope.md R14). -/
def State.elem (s : State) (base ew i : Nat) : Nat := leValue (s.readBytes (base + i * ew) ew)

/-! ### Command words -/

/-- The rows of spec/opcode_table.json in its order, as (match, mask). -/
def opcodeRows : List (CmdWord × CmdWord) :=
  [(0x00000000, 0xFFFFFFFF), (0x00000001, 0xFFFFFFFF), (0x00000010, 0xFF000FFF), (0x00000011, 0xFFCFFFFF),
   (0x00000012, 0xFFF00FFF), (0x00000020, 0xF00F00FF), (0x00000021, 0xF00F00FF), (0x00000022, 0xFFEFF0FF),
   (0x00000023, 0xFFEF0FFF), (0x00000030, 0xFFCFFFFF), (0x00000031, 0xFFCFFFFF), (0x00000040, 0xFFFFFFFF),
   (0x00000041, 0xFFFFFFFF), (0x00000042, 0xFFFFFFFF), (0x00000043, 0xFFFFFFFF), (0x00000050, 0xFFFFFFFF),
   (0x00000051, 0xFFFFFFFF), (0x00000052, 0xFFFFFFFF), (0x00000053, 0xFFFFFFFF), (0x00000054, 0xFFFFFFFF),
   (0x00000055, 0xFFFFFFFF), (0x00000060, 0xFFFFFFFF), (0x00000061, 0xFFFFFFFF), (0x00000062, 0xFE0FFFFF),
   (0x00000063, 0xFE0FFFFF)]

/-- A legal word (30_encoding.md R93, R95, R96): a row of the table matches, and the codec field of `BLKC` and `BLKD`, bits
24:22 of the word, is 0, 1, 2 or 5. -/
def LegalWord (w : CmdWord) : Prop :=
  ∃ row ∈ opcodeRows, w &&& row.2 = row.1 ∧
    (row.1 = 0x00000062 ∨ row.1 = 0x00000063 →
      w.extractLsb' 22 3 = 0 ∨ w.extractLsb' 22 3 = 1 ∨ w.extractLsb' 22 3 = 2 ∨ w.extractLsb' 22 3 = 5)

/-- The host operation issues the command word `w`: `HostIssue(w)`, or a write of `CMD` whose low 32 bits are `w` (10_state.md
R27, 40_system.md R120). -/
def Issues (op : HostOp) (w : CmdWord) : Prop :=
  op = .issue w ∨ ∃ v : Word, op = .writeReg 0x100 v ∧ v.setWidth 32 = w

/-! ### The register space (10_state.md R25) -/

/-- The numbers of the registers the host reads and writes. -/
def ReadWrite (n : RegNum) : Prop :=
  n.toNat < 0x10 ∨ (0x40 ≤ n.toNat ∧ n.toNat < 0x80) ∨ (0x110 ≤ n.toNat ∧ n.toNat ≤ 0x113)
    ∨ (0x116 ≤ n.toNat ∧ n.toNat ≤ 0x11B)

/-- The numbers of the registers the host only reads. -/
def ReadOnly (n : RegNum) : Prop :=
  (0x101 ≤ n.toNat ∧ n.toNat ≤ 0x104) ∨ n.toNat = 0x108 ∨ n.toNat = 0x109 ∨ n.toNat = 0x114 ∨ n.toNat = 0x115

/-- What a read-write register holds after a write of `v`: a coordinate register keeps the low 32 bits (R23). -/
def storedWord (n : RegNum) (v : Word) : Word :=
  if 0x40 ≤ n.toNat ∧ n.toNat < 0x80 then v &&& 0xFFFFFFFF else v

/-! ### The regions of a command (20_memory.md R65, R66) -/

/-- The command uses `EW` (10_state.md R40). -/
def usesEw : Instr → Bool
  | .reordi _ _ => true
  | .reordt _ _ => true
  | .bwtf => true
  | .bwti => true
  | .mtfe => true
  | .mtfd => true
  | .rlee => true
  | .rled => true
  | .blkc _ _ _ => true
  | .blkd _ _ _ => true
  | .nop => false
  | .clrerr => false
  | .csetup _ _ _ _ => false
  | .cclone _ _ => false
  | .isetup _ _ => false
  | .expand _ _ _ => false
  | .remove _ _ _ => false
  | .c2d _ _ => false
  | .d2c _ _ => false
  | .hufe => false
  | .hufd => false
  | .lzwe => false
  | .lzwd => false
  | .hdrp => false
  | .hdru => false

/-- The number of input bytes of a command with an input region; none for a command that uses neither `PA` nor `LEN`. -/
def inputBytes (i : Instr) (s : State) : Option Nat :=
  match i with
  | .reordi _ _ => some (s.len.toNat * s.ew.toNat)
  | .reordt _ _ => some (s.len.toNat * s.ew.toNat)
  | .bwtf => some (s.len.toNat * s.ew.toNat)
  | .bwti => some (s.len.toNat * s.ew.toNat)
  | .mtfe => some (s.len.toNat * s.ew.toNat)
  | .mtfd => some (s.len.toNat * s.ew.toNat)
  | .rlee => some (s.len.toNat * s.ew.toNat)
  | .blkc _ _ _ => some (s.len.toNat * s.ew.toNat)
  | .rled => some s.len.toNat
  | .hufe => some s.len.toNat
  | .hufd => some s.len.toNat
  | .lzwe => some s.len.toNat
  | .lzwd => some s.len.toNat
  | .hdru => some s.len.toNat
  | .blkd _ _ _ => some s.len.toNat
  | .hdrp => none
  | .nop => none
  | .clrerr => none
  | .csetup _ _ _ _ => none
  | .cclone _ _ => none
  | .isetup _ _ => none
  | .expand _ _ _ => none
  | .remove _ _ _ => none
  | .c2d _ _ => none
  | .d2c _ _ => none

/-- The command has an output region. -/
def hasOutput : Instr → Bool
  | .bwtf => true
  | .bwti => true
  | .mtfe => true
  | .mtfd => true
  | .hufe => true
  | .hufd => true
  | .lzwe => true
  | .lzwd => true
  | .rlee => true
  | .rled => true
  | .hdrp => true
  | .blkc _ _ _ => true
  | .blkd _ _ _ => true
  | .hdru => false
  | .reordi _ _ => false
  | .reordt _ _ => false
  | .nop => false
  | .clrerr => false
  | .csetup _ _ _ _ => false
  | .cclone _ _ => false
  | .isetup _ _ => false
  | .expand _ _ _ => false
  | .remove _ _ _ => false
  | .c2d _ _ => false
  | .d2c _ _ => false

/-- One of the common checks that the command runs fails (20_memory.md R66). -/
def FailsCommonCheck (i : Instr) (s : State) : Prop :=
  (usesEw i = true ∧ ¬ s.EwLegal) ∨ (∃ n, inputBytes i s = some n ∧ ¬ s.InputReady n)
    ∨ (hasOutput i = true ∧ ¬ s.OutputReady)
    ∨ (hasOutput i = true ∧ ∃ n, inputBytes i s = some n ∧ ¬ s.Disjoint n)

/-! ### What a command may write on completion (10_state.md R43, 20_memory.md R65) -/

/-- `t` with the registers that the table of R43 gives the command, and `MEM` where it stores, put back to what they
were in `s`. -/
def undoWritten (i : Instr) (s t : State) : State :=
  match i with
  | .nop => t
  | .clrerr => { t with err := s.err, errcode := s.errcode, errinfo := s.errinfo }
  | .csetup slot _ _ _ => t.setSlot slot (s.slot slot)
  | .cclone dst _ => t.setSlot dst (s.slot dst)
  | .isetup _ _ => { t with icfg := s.icfg }
  | .expand rd _ _ => t.setReg rd (s.reg rd)
  | .remove rd _ _ => t.setReg rd (s.reg rd)
  | .c2d rd _ => t.setReg rd (s.reg rd)
  | .d2c _ slot => t.setCoords (s.coordList (s.slot slot).n.toNat)
  | .reordi _ _ => { t with mem := s.mem, olen := s.olen }
  | .reordt _ _ => { t with mem := s.mem, olen := s.olen }
  | .bwtf => { t with mem := s.mem, olen := s.olen, pidx := s.pidx }
  | .bwti => { t with mem := s.mem, olen := s.olen }
  | .mtfe => { t with mem := s.mem, olen := s.olen, vmin := s.vmin, vmax := s.vmax }
  | .mtfd => { t with mem := s.mem, olen := s.olen }
  | .hufe => { t with mem := s.mem, olen := s.olen, padb := s.padb }
  | .hufd => { t with mem := s.mem, olen := s.olen }
  | .lzwe => { t with mem := s.mem, olen := s.olen, padb := s.padb }
  | .lzwd => { t with mem := s.mem, olen := s.olen }
  | .rlee => { t with mem := s.mem, olen := s.olen }
  | .rled => { t with mem := s.mem, olen := s.olen }
  | .hdrp => { t with mem := s.mem, olen := s.olen }
  | .hdru => { t with hdr := s.hdr, olen := s.olen, used := s.used }
  | .blkc bwt mtf codec =>
    { t with
      mem := s.mem
      olen := s.olen
      pidx := if bwt then s.pidx else t.pidx
      vmin := if mtf then s.vmin else t.vmin
      vmax := if mtf then s.vmax else t.vmax
      padb := if codec = 2 ∨ codec = 5 then s.padb else t.padb }
  | .blkd bwt mtf codec =>
    { t with
      mem := s.mem
      olen := s.olen
      used := s.used
      pidx := if bwt then s.pidx else t.pidx
      vmin := if mtf then s.vmin else t.vmin
      vmax := if mtf then s.vmax else t.vmax
      padb := if codec = 2 ∨ codec = 5 then s.padb else t.padb }

/-- The addresses a completed command stores to: the input region of a reorder command, the first `OLEN` bytes at `PB` of
a command with an output region, and none of any other. -/
def Stores (i : Instr) (s t : State) (a : Nat) : Prop :=
  match i with
  | .reordi _ _ => s.pa.toNat ≤ a ∧ a < s.pa.toNat + s.len.toNat * s.ew.toNat
  | .reordt _ _ => s.pa.toNat ≤ a ∧ a < s.pa.toNat + s.len.toNat * s.ew.toNat
  | i => hasOutput i = true ∧ s.pb.toNat ≤ a ∧ a < s.pb.toNat + t.olen.toNat

/-! ### Fields, rows and pairs -/

/-- Field `i` of a container header is legal (49_block_container.md R343). -/
def HdrFieldLegal (ndims k dtype sfc comp npad : Nat) (i : Nat) : Prop :=
  match i with
  | 0 => 1 ≤ ndims ∧ ndims ≤ 255
  | 1 => 1 ≤ k ∧ k ≤ 255
  | 2 => dtype = 1 ∨ dtype = 2 ∨ dtype = 4
  | 3 => sfc ≤ 4
  | 4 => comp ≤ 9
  | _ => npad ≤ 7

/-- The compression type is one of the padding set, so that `npaddingbits` is present (30_encoding.md R112). -/
def InPaddingSet (comp : Nat) : Prop := comp = 2 ∨ comp = 5 ∨ comp = 6 ∨ comp = 8

/-- Every element of the block is the same (44_bwt.md R225). -/
def ConstantBlock (xs : List Nat) : Prop := ∀ x ∈ xs, ∀ y ∈ xs, x = y

/-- Row `i` of the extended block, up to its `EOB`, which is greater than every element (44_bwt.md R222, R223). -/
def bwtRow (xs : List Nat) (i : Nat) : List (WithTop Nat) :=
  (xs.map (fun x => (x : WithTop Nat)) ++ [⊤]).drop i

/-- The pairs (count, value) of a byte sequence of `k` RLE pairs (48_lzw_rle.md R326). -/
def rlePairs (ew k : Nat) (bytes : List Byte) : List (Nat × Nat) :=
  (List.range k).map (fun p =>
    ((bytes.getD (p * (1 + ew)) 0).toNat, leValue ((bytes.drop (p * (1 + ew) + 1)).take ew)))

/-- The encoder's form of a sequence of pairs (48_lzw_rle.md R333): no zero counts, and two neighbours have the same value
only where the first count is 255. -/
def RleForm (pairs : List (Nat × Nat)) : Prop :=
  (∀ p ∈ pairs, 1 ≤ p.1 ∧ p.1 ≤ 255) ∧ pairs.IsChain (fun p q => p.2 = q.2 → p.1 = 255)

/-! ### Streams and blocks as the decoders read them -/

/-- The bits of a byte sequence with `pad` padding bits: bit `k` of the stream is bit `7 - k mod 8` of byte `k // 8`
(46_bitstream.md R262, R266). -/
def streamBits (bytes : List Byte) (pad : Nat) : List Bool :=
  (List.range (8 * bytes.length - pad)).map (fun k => (bytes.getD (k / 8) 0).getLsbD (7 - k % 8))

/-- The slots (length, code) of a Huffman table for the symbols from 0 up, each length a run of `w` bits and each code a
run of its length (47_huffman.md R288). -/
def hufSlotBits (w : Nat) (slots : List (Nat × Nat)) : List Bool :=
  slots.flatMap (fun p => putBits p.1 w ++ putBits p.2 p.1)

/-- The slots hold nothing that reading them reports: their fields fit their widths, no length is above the bound, and no
two symbols have the same length and code (47_huffman.md R291, R292). -/
def HufSlotsOk (maxlen w : Nat) (slots : List (Nat × Nat)) : Prop :=
  slots.length ≤ 256 ∧ (∀ p ∈ slots, p.1 < 2 ^ w ∧ p.1 ≤ maxlen ∧ p.2 < 2 ^ p.1)
    ∧ (slots.filter (fun p => decide (0 < p.1))).Nodup

/-- The bits of the code of a symbol in a table of slots (47_huffman.md R289). -/
def hufCodeBits (slots : List (Nat × Nat)) (a : Nat) : List Bool :=
  putBits (slots.getD a (0, 0)).2 (slots.getD a (0, 0)).1

/-- No code of the table stands at the start of the bits (47_huffman.md R293). -/
def HufNoMatch (slots : List (Nat × Nat)) (bits : List Bool) : Prop :=
  ∀ p ∈ slots, 0 < p.1 → ¬ putBits p.2 p.1 <+: bits

/-- The symbol has a code and greedy matching reaches it: no shorter code of the table stands at its start
(47_huffman.md R292, R293). -/
def HufMatched (slots : List (Nat × Nat)) (a : Nat) : Prop :=
  0 < (slots.getD a (0, 0)).1
    ∧ ∀ p ∈ slots, 0 < p.1 → p.1 < (slots.getD a (0, 0)).1 → ¬ putBits p.2 p.1 <+: hufCodeBits slots a

/-- The width of code `i` of an LZW stream: 3840 codes make a cycle, whose codes 0 .. 256 have 9 bits, 257 .. 768 have 10,
769 .. 1792 have 11 and 1793 .. 3839 have 12 (48_lzw_rle.md R312, R313). -/
def lzwCodeWidth (i : Nat) : Nat :=
  if i % 3840 ≤ 256 then 9 else if i % 3840 ≤ 768 then 10 else if i % 3840 ≤ 1792 then 11 else 12

/-- The greatest value that code `i` of an LZW stream may have: the first code of a cycle is a literal, and a later one
names at most the entry in the making (48_lzw_rle.md R316, R317). -/
def lzwCodeMax (i : Nat) : Nat := 255 + i % 3840

/-- The bits of an LZW stream of the codes (48_lzw_rle.md R312). -/
def lzwCodeBits (codes : List Nat) : List Bool :=
  codes.zipIdx.flatMap (fun p => putBits p.1 (lzwCodeWidth p.2))

/-- No code of the stream is above what it may be. -/
def LzwCodesOk (codes : List Nat) : Prop := ∀ i c, codes[i]? = some c → c ≤ lzwCodeMax i

/-- The strings that the codes stand for: a literal is its byte, and entry `256 + m` of a cycle is the string of the cycle's
code `m` and the first byte of the string of the code after it (48_lzw_rle.md R311, R316). -/
def LzwStrings (codes : List Nat) (strs : List (List Nat)) : Prop :=
  strs.length = codes.length ∧ ∀ i c, codes[i]? = some c →
    strs.getD i [] = if c < 256 then [c]
      else strs.getD (i - i % 3840 + (c - 256)) [] ++ [(strs.getD (i - i % 3840 + (c - 256) + 1) []).headD 0]

/-- The payload of a block decodes to the elements under the codec (49_block_container.md R355, R360). -/
def PayloadHolds (codec : BitVec 3) (maxlen ew : Nat) (pay : List Byte) (pad : Nat) (xs : List Nat) : Prop :=
  (∀ x ∈ xs, x < 256 ^ ew)
    ∧ (codec = 0 → pay = serialize ew xs)
    ∧ (codec = 1 → rleDecode ew pay = .ok xs)
    ∧ (codec = 2 → hufDecode maxlen pay pad = .ok (serialize ew xs))
    ∧ (codec = 5 → lzwDecode pay pad = .ok (serialize ew xs))

/-- A record of a fault and of nothing else changed, or a completion that leaves the fault registers as they were
(40_system.md R122). -/
def EndsProperly (s t : State) : Prop :=
  (t.err = s.err ∧ t.errcode = s.errcode ∧ t.errinfo = s.errinfo ∧ t.busy = s.busy) ∨
    (t.err = true ∧ t.busy = false ∧ ∃ e, t.errcode = errNumber e)

end Sys2Proof.Machine
end

