-- ==== Sys2Proof/Certificates/Slice0/Obligations.lean ====
section
/-! DEFINITION. The statements about the model, for the provers. Each docstring names the rules it rests on. `s.raise`,
`s.trap` and the other operations of the model do not occur in them: faults are said by `Trapped` and
`TrappedLosingOutput`, results by `Delivered` and by the registers (Safety.lean). -/

open Sys2Proof Sys2Proof.Machine

/-! ### Encoding (30_encoding.md) -/

/-- Decoding the word of a well-formed command gives the command back, with every operand at every value (R91, R93). -/
def Obligations.DecodeOfEncode : Prop :=
  ∀ i : Instr, i.wellFormed = true → decode (encode i) = .ok i

/-- A word that decodes is the one word of the command it decodes to (R92, R96): no bit is dropped and no two words mean
the same command. -/
def Obligations.EncodeOfDecode : Prop :=
  ∀ (w : CmdWord) (i : Instr), decode w = .ok i → i.wellFormed = true ∧ encode i = w

/-- Words written out from the encodings of the spec decode to the commands they stand for (R113 and the examples of the
command rules). -/
def Obligations.SampleWordsDecode : Prop :=
  decode 0x00101320 = .ok (.expand 3 1 1) ∧ decode 0x00954010 = .ok (.csetup .s1 4 4 5)
    ∧ decode 0x01700062 = .ok (.blkc true true 5) ∧ decode 0x00000001 = .ok .clrerr
    ∧ decode 0x00200030 = .ok (.reordi .s0 .s1) ∧ decode 0x00000040 = .ok .bwtf

/-- The decoder accepts exactly the words that a row of the opcode table matches, the codec field being legal (R93, R95,
R96). -/
def Obligations.LegalWordsDecode : Prop :=
  ∀ w : CmdWord, (∃ i, decode w = .ok i) ↔ LegalWord w

/-! ### Issue, completion, reset (40_system.md, 70_reset_and_hazards.md) -/

/-- R384 of 60_exceptions.md: an illegal word records `E_CMD`, code 1, with the word as its information, reads no register
and touches no byte of `MEM`; while a fault is recorded it is dropped. -/
def Obligations.IllegalWordFaults : Prop :=
  ∀ (s : State) (op : HostOp) (rest : List HostOp) (w : CmdWord),
    s.host = op :: rest → Issues op w → s.busy = false → ¬ LegalWord w →
      (s.err = false → ∃ t, step s = .next t ∧ Trapped { s with host := rest } t ⟨.eCmd, w.toNat⟩
        ∧ t.errcode = 1 ∧ t.errinfo = w.setWidth 64 ∧ SameMemory s t)
      ∧ (s.err = true → step s = .next { s with host := rest })

/-- A step whose next host operation issues a word that decodes to `i`, with no fault recorded, runs `exec i` on the
state with the operation taken from the program and `BUSY` set, and clears `BUSY` again (R121). One step for issue and
completion: notes/assumptions/2.md; the program as a list in State: notes/assumptions/1.md. -/
def Obligations.StepRunsDecodedCommand : Prop :=
  ∀ (s t : State) (op : HostOp) (rest : List HostOp) (w : CmdWord) (i : Instr),
    s.host = op :: rest → Issues op w → s.busy = false → s.err = false → decode w = .ok i →
      exec i { s with host := rest, busy := true } = .next t → step s = .next { t with busy := false }

/-- R121: what an issue does, for both ways of issuing and for every word. -/
def Obligations.CommandAcceptance : Prop :=
  ∀ (s : State) (op : HostOp) (rest : List HostOp) (w : CmdWord),
    s.host = op :: rest → Issues op w → s.busy = false →
      (s.err = true → w = 0x00000001 →
        step s = .next { s with host := rest, err := false, errcode := 0, errinfo := 0 })
      ∧ (s.err = true → w ≠ 0x00000001 → step s = .next { s with host := rest })
      ∧ (s.err = false → ¬ LegalWord w →
        ∃ t, step s = .next t ∧ Trapped { s with host := rest } t ⟨.eCmd, w.toNat⟩)
      ∧ (s.err = false → ∀ i, decode w = .ok i →
        ∃ t, exec i { s with host := rest, busy := true } = .next t ∧ step s = .next { t with busy := false })

/-- Every command ends, at every state, and in one of two ways: completed with the fault registers as they were, or
faulted; `CLRERR` alone clears them. No step at an idle SFCU stops the machine, and it leaves it idle (R122;
93_implementation_defined.md U22). The spec derives it from its command rules. -/
def Obligations.CommandsAlwaysEnd : Prop :=
  (∀ (i : Instr) (s : State), ∃ t, exec i s = .next t ∧ (i ≠ .clrerr → EndsProperly s t))
    ∧ (∀ s : State, s.busy = false → ∃ t, step s = .next t ∧ t.busy = false)

/-- Every step keeps the invariant of the model: the memory in its canonical form and inside `MEMSZ`, `BUSY` 0 between
steps, the fault registers 0 when no fault is recorded and a code of the table otherwise, `ICFG` and both slots not
valid or legally constructed. `BUSY` 0 between steps is notes/assumptions/2.md, the bounds of the parameters
notes/assumptions/4.md. -/
def Obligations.StepKeepsInvariant : Prop :=
  ∀ s t : State, s.Inv → step s = .next t → t.Inv

/-- The state after reset meets the invariant. -/
def Obligations.ResetMeetsInvariant : Prop := State.reset.Inv

/-- R44 of 10_state.md: after reset every register reads 0 but `EW`, which reads 1, and every byte of `MEM` is a free
value, whatever list of unspecified regions the model starts from. -/
def Obligations.ResetValues : Prop :=
  (∀ n : RegNum, State.reset.readRegister n = if n = 0x11A then 1 else 0)
    ∧ (∀ d a, ∃ k, State.readByte { State.reset with drawn := d } a = Config.freeByte k a)

/-- R420: `HostReset` gives every register its reset value and writes no byte of `MEM`; power-on is a reset with no
byte of `MEM` ever written. That the parameters, the program and the answers are kept is the model's
(notes/assumptions/1.md, 11.md). -/
def Obligations.HostResetEffect : Prop :=
  (∀ (s : State) (rest : List HostOp), s.host = .reset :: rest → s.busy = false →
    ∃ t, step s = .next t ∧ (∀ n : RegNum, t.readRegister n = if n = 0x11A then 1 else 0)
      ∧ SameMemory s t ∧ t.host = rest ∧ t.answers = s.answers ∧ t.cfg = s.cfg)
    ∧ State.reset.mem = [] ∧ State.reset.hostReset = State.reset

/-! ### Registers and memory as the host sees them (10_state.md, 20_memory.md) -/

/-- R26 of 10_state.md, and the register space around it (R22, R23, R25): a write of a read-write register is what reads of
it return from then on and no other register or byte changes; a write of any other number but `CMD` changes nothing; a
number outside the table, or `CMD`, reads 0; a read changes nothing but what the host knows. -/
def Obligations.HostRegisterAccess : Prop :=
  (∀ (s : State) (rest : List HostOp) (n : RegNum) (v : Word),
    s.host = .writeReg n v :: rest → s.busy = false → n ≠ 0x100 →
      (ReadWrite n → ∃ t, step s = .next t ∧ SameMemory s t ∧ t.host = rest
        ∧ ∀ m, t.readRegister m = if m = n then storedWord n v else s.readRegister m)
      ∧ (¬ ReadWrite n → step s = .next { s with host := rest }))
    ∧ (∀ (s : State) (n : RegNum), ¬ ReadWrite n → ¬ ReadOnly n → s.readRegister n = 0)
    ∧ (∀ (s : State) (rest : List HostOp) (n : RegNum), s.host = .readReg n :: rest → s.busy = false →
      step s = .next { s with host := rest, answers := s.readRegister n :: s.answers })

/-- The fields of `STATUS`, `ERRCODE`, `ICFG` and the curve slots as the host reads them (R28 to R31): the copies `IV`, `CV0`
and `CV1` agree with the registers they copy, and every reserved bit is 0. -/
def Obligations.PackedRegisterFields : Prop :=
  ∀ s : State,
    ((s.readRegister 0x101).getLsbD 0 = s.busy ∧ (s.readRegister 0x101).getLsbD 1 = s.err
      ∧ (s.readRegister 0x101).getLsbD 2 = s.icfg.valid ∧ (s.readRegister 0x101).getLsbD 3 = s.curve0.valid
      ∧ (s.readRegister 0x101).getLsbD 4 = s.curve1.valid ∧ s.readRegister 0x101 >>> 5 = 0)
    ∧ ((s.readRegister 0x102).extractLsb' 0 8 = s.errcode ∧ s.readRegister 0x102 >>> 8 = 0)
    ∧ ((s.readRegister 0x104).getLsbD 0 = s.icfg.valid ∧ (s.readRegister 0x104).extractLsb' 1 7 = 0
      ∧ (s.readRegister 0x104).extractLsb' 8 8 = s.icfg.n ∧ (s.readRegister 0x104).extractLsb' 16 8 = s.icfg.b
      ∧ s.readRegister 0x104 >>> 24 = 0)
    ∧ (∀ k : SlotId, ∃ w, w = s.readRegister (if k = .s0 then 0x108 else 0x109) ∧ w.getLsbD 0 = (s.slot k).valid
      ∧ (w.extractLsb' 1 3).toNat = curveTypeNumber (s.slot k).type ∧ w.extractLsb' 4 4 = 0
      ∧ w.extractLsb' 8 8 = (s.slot k).n ∧ w.extractLsb' 16 40 = (s.slot k).l ∧ w >>> 56 = 0)

/-- Host memory access (R62, R63): a write in range stores the low bytes of the value, least significant first, and no
other byte changes; a read in range returns the bytes in that order, zero-extended; an access any byte of which lies
at or above `MEMSZ` is dropped whole, the read returning 0. The four access sizes: notes/assumptions/12.md. -/
def Obligations.HostMemoryAccess : Prop :=
  (∀ (s : State) (rest : List HostOp) (a : Nat) (n : AccessSize) (v : Word),
    s.host = .writeMem a n v :: rest → s.busy = false →
      (a + accessBytes n ≤ s.cfg.memSz → ∃ t, step s = .next t ∧ { t with mem := s.mem, host := s.host } = s
        ∧ t.host = rest
        ∧ ∀ x, t.readByte x = if a ≤ x ∧ x < a + accessBytes n then v.extractLsb' (8 * (x - a)) 8 else s.readByte x)
      ∧ (s.cfg.memSz < a + accessBytes n → step s = .next { s with host := rest }))
    ∧ (∀ (s : State) (rest : List HostOp) (a : Nat) (n : AccessSize),
      s.host = .readMem a n :: rest → s.busy = false →
        ∃ v, step s = .next { s with host := rest, answers := v :: s.answers }
          ∧ (a + accessBytes n ≤ s.cfg.memSz →
            (∀ j < accessBytes n, v.extractLsb' (8 * j) 8 = s.readByte (a + j))
            ∧ v.toNat < 2 ^ (8 * accessBytes n))
          ∧ (s.cfg.memSz < a + accessBytes n → v = 0))

/-! ### Faults (60_exceptions.md) -/

/-- R383: a command that faults changes `STATUS.ERR`, `BUSY`, `ERRCODE` and `ERRINFO` and no other register; no byte
of `MEM` outside the output region changes; and no byte at all when the fault is a common check or the command has no
output region (a scalar command, a reorder command, `HDRU`). Which faults count as common checks:
notes/assumptions/7.md. -/
def Obligations.FaultFrame : Prop :=
  ∀ (i : Instr) (s t : State), s.err = false → exec i s = .next t → t.err = true →
    SameBesidesFault s t
    ∧ (∀ a, ¬ (s.pb.toNat ≤ a ∧ a < s.pb.toNat + s.cap.toNat) → t.readByte a = s.readByte a)
    ∧ (hasOutput i = false → SameMemory s t)
    ∧ (FailsCommonCheck i s → SameMemory s t)

/-- R66 of 20_memory.md: every bulk command runs the common checks first, in their order, and the first that fails is the
fault it raises, with no byte of `MEM` changed; `HDRP` runs step 4 only, `HDRU` steps 2 and 3, the reorder commands
steps 1 to 3, and a command that does not use `EW` skips step 1. -/
def Obligations.CommonChecksInOrder : Prop :=
  ∀ (i : Instr) (s : State), i.wellFormed = true →
    (usesEw i = true → ¬ s.EwLegal → ∃ t, exec i s = .next t ∧ Trapped s t ⟨.eEw, s.ew.toNat⟩)
    ∧ ((usesEw i = true → s.EwLegal) → ∀ n, inputBytes i s = some n →
      (s.cfg.maxElems < s.len.toNat → ∃ t, exec i s = .next t ∧ Trapped s t ⟨.eResource, s.len.toNat⟩)
      ∧ (s.len.toNat ≤ s.cfg.maxElems → s.cfg.memSz < s.pa.toNat + n →
        ∃ t, exec i s = .next t ∧ Trapped s t ⟨.eMemRange, s.pa.toNat⟩))
    ∧ ((usesEw i = true → s.EwLegal) → hasOutput i = true → (∀ n, inputBytes i s = some n → s.InputReady n) →
      (¬ s.OutputReady → ∃ t, exec i s = .next t ∧ Trapped s t ⟨.eMemRange, s.pb.toNat⟩)
      ∧ (s.OutputReady → ∀ n, inputBytes i s = some n → ¬ s.Disjoint n →
        ∃ t, exec i s = .next t ∧ Trapped s t ⟨.eMemOverlap, s.pb.toNat⟩))

/-- The registers and bytes that a command may write are those of the table of R43 of 10_state.md and the regions of R65
of 20_memory.md: with the former put back, the state after a completed command is the state before it, and every byte
outside the latter reads as before. In particular no scalar command touches `MEM` (R60). The hypothesis on the slots is
that of the invariant (R31). The spec derives the table of R43 from its command rules. -/
def Obligations.CompletedCommandFrame : Prop :=
  ∀ (i : Instr) (s t : State), (∀ k, SlotOk (s.slot k)) → exec i s = .next t → t.err = false →
    undoWritten i s t = s ∧ ∀ a, ¬ Stores i s t a → t.readByte a = s.readByte a

/-! ### System commands (40_system.md) -/

/-- `NOP` changes nothing (R123); `CLRERR` clears `ERR`, `ERRCODE` and `ERRINFO` and changes nothing else, and changes nothing
at all where no fault is recorded (R124). -/
def Obligations.SystemCommands : Prop :=
  (∀ s : State, exec .nop s = .next s)
    ∧ (∀ s : State, ∃ t, exec .clrerr s = .next t ∧ t.err = false ∧ t.errcode = 0 ∧ t.errinfo = 0
      ∧ t.busy = s.busy ∧ SameBesidesFault s t ∧ SameMemory s t)
    ∧ (∀ s : State, s.Inv → s.err = false → exec .clrerr s = .next s)

/-! ### Curves (41_curve.md) -/

/-- R141: the checks of `CSETUP` in their order and the slot it constructs, `N` and `L` being the full 64-bit operands. -/
def Obligations.CsetupConstructs : Prop :=
  ∀ (slot : SlotId) (type : BitVec 3) (rs1 rs2 : RegIx) (s : State) (n l : Nat),
    n = (s.reg rs1).toNat → l = (s.reg rs2).toNat →
    ((type ≠ 0 ∧ type ≠ 2 ∧ type ≠ 3 ∧ type ≠ 4) →
      ∃ t, exec (.csetup slot type rs1 rs2) s = .next t ∧ Trapped s t ⟨.eCurveType, type.toNat⟩)
    ∧ ∀ k : CurveType, type.toNat = curveTypeNumber k →
      ((n = 0 ∨ 64 < n ∨ (k = .hilbert ∧ n ≠ 2)) →
        ∃ t, exec (.csetup slot type rs1 rs2) s = .next t ∧ Trapped s t ⟨.eNdims, n⟩)
      ∧ (¬ (n = 0 ∨ 64 < n ∨ (k = .hilbert ∧ n ≠ 2)) →
        ((l ≤ 1 ∨ 2 ^ 32 < l ∨ (k ≠ .rowMajor ∧ ¬ ∃ e, l = 2 ^ e)) →
          ∃ t, exec (.csetup slot type rs1 rs2) s = .next t ∧ Trapped s t ⟨.eExtent, l⟩)
        ∧ (¬ (l ≤ 1 ∨ 2 ^ 32 < l ∨ (k ≠ .rowMajor ∧ ¬ ∃ e, l = 2 ^ e)) →
          (((k = .morton ∨ k = .gray) ∧ 2 ^ min 32 (64 / n) < l) →
            ∃ t, exec (.csetup slot type rs1 rs2) s = .next t ∧ Trapped s t ⟨.eIlvWidth, n⟩)
          ∧ (¬ ((k = .morton ∨ k = .gray) ∧ 2 ^ min 32 (64 / n) < l) →
            (2 ^ 64 ≤ l ^ n →
              ∃ t, exec (.csetup slot type rs1 rs2) s = .next t ∧ Trapped s t ⟨.eTotalOverflow, n⟩)
            ∧ (l ^ n < 2 ^ 64 →
              ∃ t, exec (.csetup slot type rs1 rs2) s = .next t ∧ (t.slot slot).valid = true
                ∧ (t.slot slot).type = k ∧ (t.slot slot).n.toNat = n ∧ (t.slot slot).l.toNat = l
                ∧ (∀ j, j ≠ slot → t.slot j = s.slot j) ∧ SameBesidesSlots s t ∧ SameMemory s t))))

/-- R148: `CCLONE` of a slot that is not valid faults; otherwise it copies the slot register and changes nothing else, and
with `dst = src` it changes nothing. -/
def Obligations.CcloneCopies : Prop :=
  ∀ (dst src : SlotId) (s : State),
    ((s.slot src).valid = false →
      ∃ t, exec (.cclone dst src) s = .next t ∧ Trapped s t ⟨.eNotConstructed, slotNumber src⟩)
    ∧ ((s.slot src).valid = true →
      ∃ t, exec (.cclone dst src) s = .next t ∧ t.slot dst = s.slot src ∧ (∀ j, j ≠ dst → t.slot j = s.slot j)
        ∧ SameBesidesSlots s t ∧ SameMemory s t ∧ (dst = src → t = s))

/-- R150: `C2D` on a slot that is not valid faults; with a coordinate outside the curve it faults with the lowest such
index; otherwise it writes the distance of the coordinates, which is below `L^N`, to `r[rd]` and changes nothing else.
The hypothesis on the slot is that of the invariant (R31). -/
def Obligations.C2dComputesDistance : Prop :=
  ∀ (rd : RegIx) (slot : SlotId) (s : State),
    ((s.slot slot).valid = false →
      ∃ t, exec (.c2d rd slot) s = .next t ∧ Trapped s t ⟨.eNotConstructed, slotNumber slot⟩)
    ∧ (∀ i, (s.slot slot).valid = true → i < (s.slot slot).n.toNat →
      (s.slot slot).l.toNat ≤ (s.coord i).toNat → (∀ j < i, (s.coord j).toNat < (s.slot slot).l.toNat) →
        ∃ t, exec (.c2d rd slot) s = .next t ∧ Trapped s t ⟨.eCoordRange, i⟩)
    ∧ (SlotOk (s.slot slot) → (s.slot slot).valid = true →
      (∀ i < (s.slot slot).n.toNat, (s.coord i).toNat < (s.slot slot).l.toNat) →
        ∃ t, exec (.c2d rd slot) s = .next t
          ∧ (t.reg rd).toNat = coordsToDist (s.slot slot).type
              ((List.range (s.slot slot).n.toNat).map (fun i => (s.coord i).toNat))
              (s.slot slot).n.toNat (s.slot slot).l.toNat
          ∧ (t.reg rd).toNat < (s.slot slot).l.toNat ^ (s.slot slot).n.toNat
          ∧ (∀ j, j ≠ rd → t.reg j = s.reg j) ∧ SameBesidesRegs s t ∧ SameMemory s t)

/-- R151: `D2C` on a slot that is not valid faults; a distance of `L^N` or more faults; otherwise it writes the coordinates
of the distance, each below `L`, to `c[0 .. N-1]`, and the other coordinate registers and everything else keep their
values. The hypothesis on the slot is that of the invariant (R31). -/
def Obligations.D2cComputesCoordinates : Prop :=
  ∀ (rs1 : RegIx) (slot : SlotId) (s : State),
    ((s.slot slot).valid = false →
      ∃ t, exec (.d2c rs1 slot) s = .next t ∧ Trapped s t ⟨.eNotConstructed, slotNumber slot⟩)
    ∧ ((s.slot slot).valid = true → (s.slot slot).l.toNat ^ (s.slot slot).n.toNat ≤ (s.reg rs1).toNat →
      ∃ t, exec (.d2c rs1 slot) s = .next t ∧ Trapped s t ⟨.eDistRange, (s.reg rs1).toNat⟩)
    ∧ (SlotOk (s.slot slot) → (s.slot slot).valid = true →
      (s.reg rs1).toNat < (s.slot slot).l.toNat ^ (s.slot slot).n.toNat →
        ∃ t v, exec (.d2c rs1 slot) s = .next t
          ∧ v = distToCoords (s.slot slot).type (s.reg rs1).toNat (s.slot slot).n.toNat (s.slot slot).l.toNat
          ∧ v.length = (s.slot slot).n.toNat ∧ (∀ x ∈ v, x < (s.slot slot).l.toNat)
          ∧ (∀ i < (s.slot slot).n.toNat, v[i]? = some (t.coord i).toNat)
          ∧ (∀ i, (s.slot slot).n.toNat ≤ i → t.coord i = s.coord i)
          ∧ SameBesidesCoords s t ∧ SameMemory s t)

/-- R152: the row-major distance is the sum of `x[i] * L^i`, and coordinate `i` of a distance is `(d // L^i) mod L`. -/
def Obligations.RowMajorFormula : Prop :=
  (∀ (xs : List Nat) (l : Nat), coordsToDist .rowMajor xs xs.length l =
      ∑ i ∈ Finset.range xs.length, xs.getD i 0 * l ^ i)
    ∧ (∀ d n l : Nat, (distToCoords .rowMajor d n l).length = n
      ∧ ∀ i < n, (distToCoords .rowMajor d n l)[i]? = some (d / l ^ i % l))
    ∧ coordsToDist .rowMajor [4, 0, 3] 3 5 = 79 ∧ distToCoords .rowMajor 79 3 5 = [4, 0, 3]

/-- On a Morton curve of extent `2^B`, bit `j` of coordinate `i` is bit `j*N + i` of the distance, in both directions, and
the distance has no other bit (R153). -/
def Obligations.MortonInterleavesBits : Prop :=
  (∀ (xs : List Nat) (n b p : Nat), xs.length = n → 0 < n →
    (coordsToDist .morton xs n (2 ^ b)).testBit p = (decide (p < n * b) && (xs.getD (p % n) 0).testBit (p / n)))
    ∧ (∀ d n b i j : Nat, i < n →
      ((distToCoords .morton d n (2 ^ b)).getD i 0).testBit j = (decide (j < b) && d.testBit (j * n + i)))

/-- R154: folding is the XOR of a value with its half; folding and unfolding are inverse on 64-bit values, keep the
bit length and map `[0, 2^k)` to itself; bit `j` of an unfolded value is the XOR of the bits from `j` up; and the two
tables of values. R155: the Gray distance is the folded Morton distance. The spec marks the shift amounts of the
unfolding as general knowledge. -/
def Obligations.GrayFoldUnfold : Prop :=
  (∀ m, grayFold m = m ^^^ (m >>> 1))
    ∧ (∀ m < 2 ^ 64, grayUnfold (grayFold m) = m ∧ grayFold (grayUnfold m) = m ∧ (grayFold m).size = m.size
    ∧ (∀ k ≤ 64, m < 2 ^ k → grayFold m < 2 ^ k ∧ grayUnfold m < 2 ^ k)
    ∧ (∀ j, (grayUnfold m).testBit j =
        decide (((List.range 64).countP (fun k => decide (j ≤ k) && m.testBit k)) % 2 = 1)))
    ∧ (List.range 16).map grayFold = [0, 1, 3, 2, 6, 7, 5, 4, 12, 13, 15, 14, 10, 11, 9, 8]
    ∧ (List.range 16).map grayUnfold = [0, 1, 3, 2, 7, 6, 4, 5, 15, 14, 12, 13, 8, 9, 11, 10]
    ∧ (∀ (xs : List Nat) (n l : Nat), coordsToDist .gray xs n l = grayFold (coordsToDist .morton xs n l))
    ∧ (∀ d n l : Nat, distToCoords .gray d n l = distToCoords .morton (grayUnfold d) n l)

/-- R171: for every legal curve of the four variants the two functions are inverse bijections between the distances below
`L^N` and the `N`-tuples of coordinates below `L`. -/
def Obligations.CurvesAreBijections : Prop :=
  ∀ (k : CurveType) (n l : Nat), LegalCurve k n l →
    (∀ d < l ^ n, (distToCoords k d n l).length = n ∧ (∀ x ∈ distToCoords k d n l, x < l)
      ∧ coordsToDist k (distToCoords k d n l) n l = d)
    ∧ (∀ xs : List Nat, xs.length = n → (∀ x ∈ xs, x < l) →
      coordsToDist k xs n l < l ^ n ∧ distToCoords k (coordsToDist k xs n l) n l = xs)

/-- R160: the cells of two consecutive Hilbert distances differ by 1 in exactly one dimension. The spec derives it
from R156 to R158. -/
def Obligations.HilbertStepsAreAdjacent : Prop :=
  ∀ e d x y x' y' : Nat, d + 1 < (2 ^ e) ^ 2 →
    distToCoords .hilbert d 2 (2 ^ e) = [x, y] → distToCoords .hilbert (d + 1) 2 (2 ^ e) = [x', y'] →
      (y = y' ∧ (x' = x + 1 ∨ x = x' + 1)) ∨ (x = x' ∧ (y' = y + 1 ∨ y = y' + 1))

/-! ### The interleaver (42_interleave.md) -/

/-- R183: the checks of `ISETUP` in their order and the configuration it constructs. -/
def Obligations.IsetupConstructs : Prop :=
  ∀ (rs1 rs2 : RegIx) (s : State) (n b : Nat), n = (s.reg rs1).toNat → b = (s.reg rs2).toNat →
    ((n = 0 ∨ 64 < n) → ∃ t, exec (.isetup rs1 rs2) s = .next t ∧ Trapped s t ⟨.eNdims, n⟩)
    ∧ (1 ≤ n → n ≤ 64 →
      ((b = 0 ∨ 32 < b) → ∃ t, exec (.isetup rs1 rs2) s = .next t ∧ Trapped s t ⟨.eIlvWidth, b⟩)
      ∧ (1 ≤ b → b ≤ 32 →
        (64 < n * b → ∃ t, exec (.isetup rs1 rs2) s = .next t ∧ Trapped s t ⟨.eIlvWidth, n * b⟩)
        ∧ (n * b ≤ 64 → ∃ t, exec (.isetup rs1 rs2) s = .next t ∧ t.icfg.valid = true
          ∧ t.icfg.n.toNat = n ∧ t.icfg.b.toNat = b ∧ SameBesidesIcfg s t ∧ SameMemory s t)))

/-- R185, bit by bit: bit `j*N + i` of the result of `EXPAND` is bit `j` of the source for `j < B`, every other bit is 0, and
only `r[rd]` changes; the source may be the destination. The hypothesis on `ICFG` is that of the invariant (R30). -/
def Obligations.ExpandDepositsBits : Prop :=
  ∀ (rd rs1 : RegIx) (dim : BitVec 8) (s : State),
    (s.icfg.valid = false → ∃ t, exec (.expand rd rs1 dim) s = .next t ∧ Trapped s t ⟨.eNotConstructed, 2⟩)
    ∧ (s.icfg.valid = true → s.icfg.n.toNat ≤ dim.toNat →
      ∃ t, exec (.expand rd rs1 dim) s = .next t ∧ Trapped s t ⟨.eDimIndex, dim.toNat⟩)
    ∧ (IcfgOk s.icfg → s.icfg.valid = true → dim.toNat < s.icfg.n.toNat →
      ∃ t, exec (.expand rd rs1 dim) s = .next t
        ∧ (∀ p < 64, (t.reg rd).getLsbD p =
          (decide (p < s.icfg.n.toNat * s.icfg.b.toNat) && decide (p % s.icfg.n.toNat = dim.toNat)
            && (s.reg rs1).getLsbD (p / s.icfg.n.toNat)))
        ∧ (∀ j, j ≠ rd → t.reg j = s.reg j) ∧ SameBesidesRegs s t ∧ SameMemory s t)

/-- R187, bit by bit: bit `j` of the result of `REMOVE` is bit `j*N + i` of the source for `j < B`, every other bit is 0, and
only `r[rd]` changes. The hypothesis on `ICFG` is that of the invariant (R30). -/
def Obligations.RemoveGathersBits : Prop :=
  ∀ (rd rs1 : RegIx) (dim : BitVec 8) (s : State),
    (s.icfg.valid = false → ∃ t, exec (.remove rd rs1 dim) s = .next t ∧ Trapped s t ⟨.eNotConstructed, 2⟩)
    ∧ (s.icfg.valid = true → s.icfg.n.toNat ≤ dim.toNat →
      ∃ t, exec (.remove rd rs1 dim) s = .next t ∧ Trapped s t ⟨.eDimIndex, dim.toNat⟩)
    ∧ (IcfgOk s.icfg → s.icfg.valid = true → dim.toNat < s.icfg.n.toNat →
      ∃ t, exec (.remove rd rs1 dim) s = .next t
        ∧ (∀ j < 64, (t.reg rd).getLsbD j =
          (decide (j < s.icfg.b.toNat) && (s.reg rs1).getLsbD (j * s.icfg.n.toNat + dim.toNat)))
        ∧ (∀ j, j ≠ rd → t.reg j = s.reg j) ∧ SameBesidesRegs s t ∧ SameMemory s t)

/-- R189: removing what was expanded gives the value back, removing another dimension gives 0, and the dimensions of a
distance put together give the distance. The spec derives it from R184 and R186. -/
def Obligations.InterleaveRoundTrip : Prop :=
  ∀ n b : Nat, LegalInterleave n b →
    (∀ i < n, ∀ v < 2 ^ b, remove (expand v i n b) i n b = v
      ∧ ∀ k < n, k ≠ i → remove (expand v i n b) k n b = 0)
    ∧ (∀ d < 2 ^ (n * b), (List.range n).foldl (fun acc i => acc ||| expand (remove d i n b) i n b) 0 = d)

/-- The hardware deposit and extract under the mask of a dimension compute the primitive, and the mask of dimension
`i` has the bits `j*N + i` for `j < B` (R181, R188). The spec takes the definitions of deposit and extract from
general knowledge. -/
def Obligations.DepositExtractAgree : Prop :=
  ∀ n b i : Nat, LegalInterleave n b → i < n →
    (∀ p, (mask i n b).testBit p = (decide (p < n * b) && decide (p % n = i)))
    ∧ (∀ v, deposit v (mask i n b) = expand v i n b) ∧ (∀ d, extract d (mask i n b) = remove d i n b)

/-! ### The reorderer (43_reorder.md) -/

/-- R200: with both slots constructed, of equal dimensions and extent, and `LEN = L^N`, each reorder command completes, and
afterwards the element at the index of every coordinate tuple on curve `to` is the element that stood at its index on
curve `from`; no byte outside the region changes and no register but `OLEN`, which becomes 0. -/
def Obligations.ReorderPermutes : Prop :=
  ∀ (f g : SlotId) (s : State) (i : Instr), i = .reordi f g ∨ i = .reordt f g →
    SlotOk (s.slot f) → SlotOk (s.slot g) → (s.slot f).valid = true → (s.slot g).valid = true →
    (s.slot f).n = (s.slot g).n → (s.slot f).l = (s.slot g).l →
    s.EwLegal → s.InputReady (s.len.toNat * s.ew.toNat) →
    s.len.toNat = (s.slot f).l.toNat ^ (s.slot f).n.toNat →
      ∃ t, exec i s = .next t
        ∧ (∀ xs : List Nat, xs.length = (s.slot f).n.toNat → (∀ x ∈ xs, x < (s.slot f).l.toNat) →
          t.elem s.pa.toNat s.ew.toNat (coordsToDist (s.slot g).type xs (s.slot g).n.toNat (s.slot g).l.toNat) =
            s.elem s.pa.toNat s.ew.toNat (coordsToDist (s.slot f).type xs (s.slot f).n.toNat (s.slot f).l.toNat))
        ∧ (∀ a, ¬ (s.pa.toNat ≤ a ∧ a < s.pa.toNat + s.len.toNat * s.ew.toNat) → t.readByte a = s.readByte a)
        ∧ t.olen = 0 ∧ SameBesidesMemOlen s t

/-- R202: the checks of both reorder commands in their order; each leaves every byte of `MEM` as it was (R205). -/
def Obligations.ReorderChecksInOrder : Prop :=
  ∀ (f g : SlotId) (s : State) (i : Instr), i = .reordi f g ∨ i = .reordt f g →
    (¬ s.EwLegal → ∃ t, exec i s = .next t ∧ Trapped s t ⟨.eEw, s.ew.toNat⟩)
    ∧ (s.EwLegal →
      (s.cfg.maxElems < s.len.toNat → ∃ t, exec i s = .next t ∧ Trapped s t ⟨.eResource, s.len.toNat⟩)
      ∧ (s.len.toNat ≤ s.cfg.maxElems → s.cfg.memSz < s.pa.toNat + s.len.toNat * s.ew.toNat →
        ∃ t, exec i s = .next t ∧ Trapped s t ⟨.eMemRange, s.pa.toNat⟩)
      ∧ (s.InputReady (s.len.toNat * s.ew.toNat) →
        ((s.slot f).valid = false →
          ∃ t, exec i s = .next t ∧ Trapped s t ⟨.eNotConstructed, slotNumber f⟩)
        ∧ ((s.slot f).valid = true → (s.slot g).valid = false →
          ∃ t, exec i s = .next t ∧ Trapped s t ⟨.eNotConstructed, slotNumber g⟩)
        ∧ ((s.slot f).valid = true → (s.slot g).valid = true →
          (((s.slot f).n ≠ (s.slot g).n ∨ (s.slot f).l ≠ (s.slot g).l) →
            ∃ t, exec i s = .next t ∧ Trapped s t ⟨.eReordMismatch, slotNumber g⟩)
          ∧ ((s.slot f).n = (s.slot g).n → (s.slot f).l = (s.slot g).l →
            s.len.toNat ≠ (s.slot f).l.toNat ^ (s.slot f).n.toNat →
              ∃ t, exec i s = .next t ∧ Trapped s t ⟨.eReordLen, s.len.toNat⟩))))

/-- R207: cycle following in place and the temporary have the same effect on every input. The hypotheses on the slots
are those of the invariant (R31). The spec derives it from R203, R204 and R206. -/
def Obligations.ReorderStrategiesAgree : Prop :=
  ∀ (f g : SlotId) (s : State), SlotOk (s.slot f) → SlotOk (s.slot g) →
    exec (.reordi f g) s = exec (.reordt f g) s

/-- R210: reordering from one curve to another and back restores every byte of `MEM`, for both strategies. The spec
derives it from R201. -/
def Obligations.ReorderRestores : Prop :=
  ∀ (f g : SlotId) (s : State) (i j : Instr),
    (i = .reordi f g ∧ j = .reordi g f) ∨ (i = .reordt f g ∧ j = .reordt g f) →
    SlotOk (s.slot f) → SlotOk (s.slot g) → (s.slot f).valid = true → (s.slot g).valid = true →
    (s.slot f).n = (s.slot g).n → (s.slot f).l = (s.slot g).l →
    s.EwLegal → s.InputReady (s.len.toNat * s.ew.toNat) →
    s.len.toNat = (s.slot f).l.toNat ^ (s.slot f).n.toNat →
      ∃ t u, exec i s = .next t ∧ exec j t = .next u ∧ u.err = s.err ∧ SameMemory s u

/-! ### The BWT engine (44_bwt.md) -/

/-- R224 (and R225, by which the constant block is no exception): the rows of the extended block in their order, the rank of
the identity row as primary index, and the last column without its `EOB` as output. -/
def Obligations.BwtForwardSortsRows : Prop :=
  bwtForward [] = ([], 0) ∧
  ∀ xs : List Nat, xs ≠ [] → ∃ sa : List Nat, sa.Perm (List.range (xs.length + 1))
    ∧ sa.Pairwise (fun i k => bwtRow xs i < bwtRow xs k)
    ∧ (bwtForward xs).2 < xs.length ∧ sa[(bwtForward xs).2]? = some 0
    ∧ (bwtForward xs).1.length = xs.length
    ∧ ∀ r i, sa[r]? = some (i + 1) →
      (bwtForward xs).1[if r < (bwtForward xs).2 then r else r - 1]? = xs[i]?

/-- `BWTF` (R226): once the common checks pass it delivers the transform of the input elements and its primary index, or,
where `LEN * EW` bytes do not fit, raises `E_CAP`. -/
def Obligations.BwtfDelivers : Prop :=
  ∀ s : State, s.TypedReady (s.len.toNat * s.ew.toNat) →
    (s.len.toNat * s.ew.toNat ≤ s.cap.toNat → ∃ t, exec .bwtf s = .next t
      ∧ t.olen.toNat = s.len.toNat * s.ew.toNat
      ∧ Delivered s t { plainResult (serialize s.ew.toNat
          (bwtForward (s.readElems s.pa.toNat s.ew.toNat s.len.toNat)).1) with
          pidx := some (bwtForward (s.readElems s.pa.toNat s.ew.toNat s.len.toNat)).2 })
    ∧ (s.cap.toNat < s.len.toNat * s.ew.toNat → ∃ t, exec .bwtf s = .next t
      ∧ TrappedLosingOutput s t ⟨.eCap, s.len.toNat * s.ew.toNat⟩)

/-- `BWTI` (R228, R229): once the common checks pass, an input that is the transform of a block with `PIDX` its primary index
delivers the block; a constant input is delivered whatever `PIDX` holds; either raises `E_CAP` where it does not fit; and
an input that is not constant raises `E_BWT_INDEX` where `PIDX >= LEN`, and where it is with `PIDX` the image of no
rearrangement of itself, which R228 says of the walks that do not close (the image of a block rearranges it, R224). -/
def Obligations.BwtiDelivers : Prop :=
  ∀ (s : State) (ts : List Nat), s.TypedReady (s.len.toNat * s.ew.toNat) →
    ts = s.readElems s.pa.toNat s.ew.toNat s.len.toNat →
    (∀ xs, (bwtForward xs = (ts, s.pidx.toNat) ∨ (ConstantBlock ts ∧ xs = ts)) →
      (s.len.toNat * s.ew.toNat ≤ s.cap.toNat →
        ∃ t, exec .bwti s = .next t ∧ t.olen.toNat = s.len.toNat * s.ew.toNat
          ∧ Delivered s t (plainResult (serialize s.ew.toNat xs)))
      ∧ (s.cap.toNat < s.len.toNat * s.ew.toNat →
        ∃ t, exec .bwti s = .next t ∧ TrappedLosingOutput s t ⟨.eCap, s.len.toNat * s.ew.toNat⟩))
    ∧ (¬ ConstantBlock ts → (s.len.toNat ≤ s.pidx.toNat ∨ ∀ xs, xs.Perm ts → bwtForward xs ≠ (ts, s.pidx.toNat)) →
      ∃ t, exec .bwti s = .next t ∧ TrappedLosingOutput s t ⟨.eBwtIndex, s.pidx.toNat⟩)

/-- R233: the inverse of the forward transform of every block is the block, with no fault; the transform permutes the
block, so its minimum and maximum are unchanged and a constant output comes only from a constant block. The spec
derives it from R224 and R227. -/
def Obligations.BwtRoundTrip : Prop :=
  ∀ xs : List Nat, bwtInverse (bwtForward xs).1 (bwtForward xs).2 = .ok xs
    ∧ (bwtForward xs).1.Perm xs
    ∧ blockMin (bwtForward xs).1 = blockMin xs ∧ blockMax (bwtForward xs).1 = blockMax xs
    ∧ (ConstantBlock (bwtForward xs).1 → ConstantBlock xs)

/-- Whatever the inverse accepts is the transform of what it gives (R228, R234): on a block that is not constant a
pair that is the image of no block is always reported, and two different pairs never give the same block. The spec
derives R234 from R227 and R228. -/
def Obligations.BwtInverseAcceptsOnlyImages : Prop :=
  ∀ (ts xs : List Nat) (p : Nat), ¬ ConstantBlock ts → bwtInverse ts p = .ok xs → bwtForward xs = (ts, p)

/-! ### The move-to-front codec (45_mtf.md) -/

/-- `MTFE` (R242, R243): once the common checks pass, an empty block gives no code and 0 for both bounds; another block, with
`mn` and `mx` its least and greatest elements, raises `E_MTF_ALPHABET` where `mx - mn + 1` is above `MTF_AMAX`, else
`E_CAP` where its codes do not fit, else delivers its codes and the two bounds. -/
def Obligations.MtfeDelivers : Prop :=
  ∀ (s : State) (xs : List Nat), s.TypedReady (s.len.toNat * s.ew.toNat) →
    xs = s.readElems s.pa.toNat s.ew.toNat s.len.toNat →
    (xs = [] → ∃ t, exec .mtfe s = .next t
      ∧ Delivered s t { plainResult [] with vmin := some 0, vmax := some 0 })
    ∧ (∀ mn ∈ xs, ∀ mx ∈ xs, (∀ x ∈ xs, mn ≤ x ∧ x ≤ mx) →
      (s.cfg.mtfAmax < mx - mn + 1 →
        ∃ t, exec .mtfe s = .next t ∧ TrappedLosingOutput s t ⟨.eMtfAlphabet, mx - mn + 1⟩)
      ∧ (mx - mn + 1 ≤ s.cfg.mtfAmax → s.cap.toNat < s.len.toNat * s.ew.toNat →
        ∃ t, exec .mtfe s = .next t ∧ TrappedLosingOutput s t ⟨.eCap, s.len.toNat * s.ew.toNat⟩)
      ∧ (mx - mn + 1 ≤ s.cfg.mtfAmax → s.len.toNat * s.ew.toNat ≤ s.cap.toNat →
        ∃ t, exec .mtfe s = .next t ∧ t.olen.toNat = s.len.toNat * s.ew.toNat
          ∧ Delivered s t { plainResult (serialize s.ew.toNat (mtfEncodeLoop (alphabet mn mx) xs)) with
              vmin := some mn, vmax := some mx }))

/-- `MTFD` (R244, R245, R246): once the common checks pass, bounds that no encoder gives raise `E_MTF_ALPHABET`; with good
bounds the first code outside the alphabet raises `E_MTF_RANK` with its index; with all codes inside it delivers elements
between the bounds whose codes over the same alphabet are the input, or raises `E_CAP` where they do not fit. -/
def Obligations.MtfdDelivers : Prop :=
  ∀ (s : State) (codes : List Nat), s.TypedReady (s.len.toNat * s.ew.toNat) →
    codes = s.readElems s.pa.toNat s.ew.toNat s.len.toNat →
    ((s.vmax.toNat < s.vmin.toNat ∨ 2 ^ (8 * s.ew.toNat) ≤ s.vmax.toNat
        ∨ s.cfg.mtfAmax < s.vmax.toNat - s.vmin.toNat + 1) →
      ∃ t, exec .mtfd s = .next t ∧ TrappedLosingOutput s t ⟨.eMtfAlphabet, s.vmax.toNat⟩)
    ∧ (s.vmin.toNat ≤ s.vmax.toNat → s.vmax.toNat < 2 ^ (8 * s.ew.toNat) →
      s.vmax.toNat - s.vmin.toNat + 1 ≤ s.cfg.mtfAmax →
      (∀ k c, codes[k]? = some c → s.vmax.toNat - s.vmin.toNat + 1 ≤ c →
        (∀ j < k, codes.getD j 0 < s.vmax.toNat - s.vmin.toNat + 1) →
          ∃ t, exec .mtfd s = .next t ∧ TrappedLosingOutput s t ⟨.eMtfRank, k⟩)
      ∧ ((∀ c ∈ codes, c < s.vmax.toNat - s.vmin.toNat + 1) → s.len.toNat * s.ew.toNat ≤ s.cap.toNat →
        ∃ t xs, exec .mtfd s = .next t ∧ (∀ x ∈ xs, s.vmin.toNat ≤ x ∧ x ≤ s.vmax.toNat)
          ∧ mtfEncodeLoop (alphabet s.vmin.toNat s.vmax.toNat) xs = codes
          ∧ t.olen.toNat = s.len.toNat * s.ew.toNat
          ∧ Delivered s t (plainResult (serialize s.ew.toNat xs)))
      ∧ ((∀ c ∈ codes, c < s.vmax.toNat - s.vmin.toNat + 1) → s.cap.toNat < s.len.toNat * s.ew.toNat →
        ∃ t, exec .mtfd s = .next t ∧ TrappedLosingOutput s t ⟨.eCap, s.len.toNat * s.ew.toNat⟩))

/-- The code of an element is its recency rank (R241, R243): a value seen before has as its rank the number of distinct
values after its last occurrence; a new value has its place in the ascending alphabet, moved back by every distinct
greater value seen before it. -/
def Obligations.MtfCodesAreRecencyRanks : Prop :=
  ∀ (xs : List Nat) (k x : Nat), xs[k]? = some x →
    (mtfEncodeLoop (alphabet (blockMin xs) (blockMax xs)) xs)[k]? = some (
      if x ∈ xs.take k then (((xs.take k).reverse.takeWhile (fun y => decide (y ≠ x))).dedup).length
      else (x - blockMin xs) + (((xs.take k).dedup).filter (fun y => decide (x < y))).length)

/-- R251: decoding what was encoded gives the block back with no fault, the range check passes on the bounds the
encoder gives, and whatever is accepted decodes to values between the bounds. The spec derives it from R243 and R246;
the lower bound of `MTF_AMAX`: notes/assumptions/4.md. -/
def Obligations.MtfRoundTrip : Prop :=
  (∀ (amax : Nat) (xs codes : List Nat) (mn mx : Nat), 1 ≤ amax → mtfEncode amax xs = .ok (codes, mn, mx) →
    mtfDecode codes mn mx = .ok xs
    ∧ ∀ ew, (∀ x ∈ xs, x < 2 ^ (8 * ew)) → mtfRangeCheck amax ew mn mx = .ok ())
  ∧ (∀ (codes xs : List Nat) (mn mx : Nat), mn ≤ mx → mtfDecode codes mn mx = .ok xs →
    ∀ x ∈ xs, mn ≤ x ∧ x ≤ mx)

/-! ### Bit streams, Huffman, LZW and RLE (46_bitstream.md, 47_huffman.md, 48_lzw_rle.md) -/

/-- The bit stream (R262, R263, R264, R266): bit `k` of a stream is bit `7 - k mod 8` of byte `k // 8`; the padding count is
below 8 and fills the last byte; a reader over the bytes and the count sees the stream again; a run that was put is the
run that is got; and a run cut short is reported with the position where it began. -/
def Obligations.BitStreamRoundTrip : Prop :=
  (∀ (bits : List Bool), (finishBits bits).2 < 8
    ∧ 8 * (finishBits bits).1.length = bits.length + (finishBits bits).2
    ∧ (∀ k < bits.length, ((finishBits bits).1.getD (k / 8) 0).getLsbD (7 - k % 8) = bits.getD k false)
    ∧ newReader (finishBits bits).1 (finishBits bits).2 = .ok { bits := bits, pos := 0 })
  ∧ (∀ (v w pos : Nat) (rest : List Bool), v < 2 ^ w →
    getBits w { bits := putBits v w ++ rest, pos := pos } = .ok (v, { bits := rest, pos := pos + w }))
  ∧ (∀ (w : Nat) (rd : BitReader), rd.bits.length < w → getBits w rd = .error ⟨.eStreamTrunc, rd.pos⟩)

/-- `HUFE` and `HUFD` (R286 to R294, R266, R267), once the common checks pass. `HUFE` raises `E_HUF_CODELEN` where a code is
longer than `HUF_MAXLEN`; otherwise its stream has `32 + 256*W` bits, the bits of the codes in the table and the bits of
the codes of the input, and it delivers the stream with its padding count or raises `E_CAP`. `HUFD` raises `E_PADB` for a
padding count above 7 or above the bits present, raises every other fault that decoding its input meets, and delivers
what it decodes to, among them the bytes whose stream it is given, or raises `E_CAP`. What decoding meets: a stream cut
short in the head, a slot's length or a slot's code, at the position where that run began; a length field that is not
1 to 16; a length above the bound; a code given twice; a count that is not the number of codes; and in the payload, after
the symbols that greedy matching finds, bits that match no code, cut short or not. -/
def Obligations.HuffmanCommands : Prop :=
  (∀ (s : State) (xs : List Byte) (table : List (Nat × Nat)), s.ByteReady s.len.toNat →
    xs = s.readBytes s.pa.toNat s.len.toNat →
    table = hufTable (hufCodes (hufBuild (xs.map BitVec.toNat))) →
    (s.cfg.hufMaxlen < hufMaxLen table →
      ∃ t, exec .hufe s = .next t ∧ TrappedLosingOutput s t ⟨.eHufCodelen, hufMaxLen table⟩)
    ∧ (hufMaxLen table ≤ s.cfg.hufMaxlen →
      ∃ out pad, hufEncode s.cfg.hufMaxlen xs = .ok (out, pad)
        ∧ 8 * out.length = 32 + 256 * hufWidth table + (table.map Prod.fst).sum
            + (xs.map (fun b => (table.getD b.toNat (0, 0)).1)).sum + pad
        ∧ (out.length ≤ s.cap.toNat →
          ∃ t, exec .hufe s = .next t ∧ Delivered s t { plainResult out with padb := some pad })
        ∧ (s.cap.toNat < out.length →
          ∃ t, exec .hufe s = .next t ∧ TrappedLosingOutput s t ⟨.eCap, out.length⟩)))
  ∧ (∀ s : State, s.ByteReady s.len.toNat →
    ((7 < s.padb.toNat ∨ 8 * s.len.toNat < s.padb.toNat) →
      ∃ t, exec .hufd s = .next t ∧ TrappedLosingOutput s t ⟨.ePadb, s.padb.toNat⟩)
    ∧ (∀ e, hufDecode s.cfg.hufMaxlen (s.readBytes s.pa.toNat s.len.toNat) s.padb.toNat = .error e →
      ∃ t, exec .hufd s = .next t ∧ TrappedLosingOutput s t e)
    ∧ (∀ xs, (hufEncode s.cfg.hufMaxlen xs = .ok (s.readBytes s.pa.toNat s.len.toNat, s.padb.toNat)
        ∨ hufDecode s.cfg.hufMaxlen (s.readBytes s.pa.toNat s.len.toNat) s.padb.toNat = .ok xs) →
      (xs.length ≤ s.cap.toNat → ∃ t, exec .hufd s = .next t ∧ Delivered s t (plainResult xs))
      ∧ (s.cap.toNat < xs.length →
        ∃ t, exec .hufd s = .next t ∧ TrappedLosingOutput s t ⟨.eCap, xs.length⟩)))
  ∧ (∀ (maxlen pad : Nat) (bytes : List Byte),
    ((7 < pad ∨ 8 * bytes.length < pad) → hufDecode maxlen bytes pad = .error ⟨.ePadb, pad⟩)
    ∧ (pad ≤ 7 → pad ≤ 8 * bytes.length → (streamBits bytes pad).length < 32 →
      hufDecode maxlen bytes pad = .error ⟨.eStreamTrunc, if (streamBits bytes pad).length < 16 then 0 else 16⟩)
    ∧ (∀ (count w : Nat) (tail : List Bool), pad ≤ 7 → pad ≤ 8 * bytes.length → count < 2 ^ 16 → w < 2 ^ 16 →
      streamBits bytes pad = putBits count 16 ++ putBits w 16 ++ tail → (w = 0 ∨ 16 < w) →
        hufDecode maxlen bytes pad = .error ⟨.eHufTable, 1⟩)
    ∧ (∀ (count w pos : Nat) (slots : List (Nat × Nat)) (tail : List Bool), pad ≤ 7 → pad ≤ 8 * bytes.length →
      count < 2 ^ 16 → 1 ≤ w → w ≤ 16 → HufSlotsOk maxlen w slots →
      streamBits bytes pad = putBits count 16 ++ putBits w 16 ++ hufSlotBits w slots ++ tail →
      pos = 32 + (hufSlotBits w slots).length →
        (slots.length < 256 → tail.length < w → hufDecode maxlen bytes pad = .error ⟨.eStreamTrunc, pos⟩)
        ∧ (∀ l rest, slots.length < 256 → l < 2 ^ w → tail = putBits l w ++ rest →
          (maxlen < l → hufDecode maxlen bytes pad = .error ⟨.eHufCodelen, l⟩)
          ∧ (l ≤ maxlen → rest.length < l → hufDecode maxlen bytes pad = .error ⟨.eStreamTrunc, pos + w⟩)
          ∧ (∀ c, l ≤ maxlen → 0 < l → c < 2 ^ l → putBits c l <+: rest → (l, c) ∈ slots →
            hufDecode maxlen bytes pad = .error ⟨.eHufTable, 2⟩))
        ∧ (slots.length = 256 → slots.countP (fun p => decide (0 < p.1)) ≠ count →
          hufDecode maxlen bytes pad = .error ⟨.eHufTable, 3⟩)
        ∧ (∀ (syms : List Nat) (rest : List Bool), slots.length = 256 →
          slots.countP (fun p => decide (0 < p.1)) = count → tail = syms.flatMap (hufCodeBits slots) ++ rest →
          (∀ a ∈ syms, HufMatched slots a) → HufNoMatch slots rest →
            (rest = [] → hufDecode maxlen bytes pad = .ok (syms.map (BitVec.ofNat 8)))
            ∧ (rest ≠ [] → rest.length < maxlen → hufDecode maxlen bytes pad =
              .error ⟨.eStreamTrunc, pos + (syms.flatMap (hufCodeBits slots)).length⟩)
            ∧ (rest ≠ [] → maxlen ≤ rest.length → hufDecode maxlen bytes pad =
              .error ⟨.eHufNomatch, pos + (syms.flatMap (hufCodeBits slots)).length⟩))))

/-- R300 for Huffman: for every byte sequence the encoder accepts, decoding its stream with its padding count gives
the sequence back, with no fault. The spec derives it from R290 and R294. -/
def Obligations.HuffmanRoundTrip : Prop :=
  ∀ (maxlen pad : Nat) (xs out : List Byte), hufEncode maxlen xs = .ok (out, pad) → hufDecode maxlen out pad = .ok xs

/-- The code table (R282, R284, R285): a symbol of the input has a code of at least one bit that fits its length, no code is
a prefix of another, a symbol that does not occur has neither, and a lone symbol has the one-bit code 0. -/
def Obligations.HuffmanCodesArePrefixFree : Prop :=
  ∀ (xs : List Nat) (table : List (Nat × Nat)), (∀ x ∈ xs, x < 256) → table = hufTable (hufCodes (hufBuild xs)) →
    (∀ a ∈ xs, 0 < (table.getD a (0, 0)).1 ∧ (table.getD a (0, 0)).2 < 2 ^ (table.getD a (0, 0)).1)
    ∧ (∀ a ∈ xs, ∀ b ∈ xs, a ≠ b → (table.getD a (0, 0)).1 ≤ (table.getD b (0, 0)).1 →
      (table.getD b (0, 0)).2 / 2 ^ ((table.getD b (0, 0)).1 - (table.getD a (0, 0)).1) ≠ (table.getD a (0, 0)).2)
    ∧ (∀ a, a ∉ xs → table.getD a (0, 0) = (0, 0))
    ∧ (∀ a ∈ xs, ConstantBlock xs → table.getD a (0, 0) = (1, 0))

/-- `LZWE` and `LZWD` (R311 to R318, R266, R267), once the common checks pass. `LZWE` delivers the stream of its input and the
padding count, or raises `E_CAP`; its stream is codes of the widths of R312, in cycles of 3840 codes (R313), none above
what it may be. `LZWD` raises `E_PADB` for a padding count above 7 or above the bits present, raises every other fault
that decoding its input meets, `E_LZW_CODE` where the first code is no literal among them, and delivers what it decodes
to, among them the bytes whose stream it is given, or raises `E_CAP`. What decoding meets after any number of good codes:
fewer bits than the next code needs, at the position where it began; a code that is no literal at the start of a cycle or
above the entry in the making; or the end, the bytes then being the strings of the codes. -/
def Obligations.LzwCommands : Prop :=
  (∀ (s : State) (out : List Byte) (pad : Nat), s.ByteReady s.len.toNat →
    (out, pad) = lzwEncode (s.readBytes s.pa.toNat s.len.toNat) →
    (∃ codes, (out, pad) = finishBits (lzwCodeBits codes) ∧ LzwCodesOk codes)
    ∧ (out.length ≤ s.cap.toNat →
      ∃ t, exec .lzwe s = .next t ∧ Delivered s t { plainResult out with padb := some pad })
    ∧ (s.cap.toNat < out.length → ∃ t, exec .lzwe s = .next t ∧ TrappedLosingOutput s t ⟨.eCap, out.length⟩))
  ∧ (∀ s : State, s.ByteReady s.len.toNat →
    ((7 < s.padb.toNat ∨ 8 * s.len.toNat < s.padb.toNat) →
      ∃ t, exec .lzwd s = .next t ∧ TrappedLosingOutput s t ⟨.ePadb, s.padb.toNat⟩)
    ∧ (∀ code, s.padb.toNat ≤ 7 → 9 + s.padb.toNat ≤ 8 * s.len.toNat →
      code = 2 * (s.readByte s.pa.toNat).toNat + ((s.readByte (s.pa.toNat + 1)).getLsbD 7).toNat → 256 ≤ code →
        ∃ t, exec .lzwd s = .next t ∧ TrappedLosingOutput s t ⟨.eLzwCode, code⟩)
    ∧ (∀ e, lzwDecode (s.readBytes s.pa.toNat s.len.toNat) s.padb.toNat = .error e →
      ∃ t, exec .lzwd s = .next t ∧ TrappedLosingOutput s t e)
    ∧ (∀ xs, (lzwEncode xs = (s.readBytes s.pa.toNat s.len.toNat, s.padb.toNat)
        ∨ lzwDecode (s.readBytes s.pa.toNat s.len.toNat) s.padb.toNat = .ok xs) →
      (xs.length ≤ s.cap.toNat → ∃ t, exec .lzwd s = .next t ∧ Delivered s t (plainResult xs))
      ∧ (s.cap.toNat < xs.length →
        ∃ t, exec .lzwd s = .next t ∧ TrappedLosingOutput s t ⟨.eCap, xs.length⟩)))
  ∧ (∀ (pad : Nat) (bytes : List Byte),
    ((7 < pad ∨ 8 * bytes.length < pad) → lzwDecode bytes pad = .error ⟨.ePadb, pad⟩)
    ∧ (∀ (codes : List Nat) (tail : List Bool), pad ≤ 7 → pad ≤ 8 * bytes.length → LzwCodesOk codes →
      streamBits bytes pad = lzwCodeBits codes ++ tail →
        (tail ≠ [] → tail.length < lzwCodeWidth codes.length →
          lzwDecode bytes pad = .error ⟨.eStreamTrunc, (lzwCodeBits codes).length⟩)
        ∧ (∀ c, c < 2 ^ lzwCodeWidth codes.length → putBits c (lzwCodeWidth codes.length) <+: tail →
          lzwCodeMax codes.length < c → lzwDecode bytes pad = .error ⟨.eLzwCode, c⟩)
        ∧ (∀ strs, tail = [] → LzwStrings codes strs →
          lzwDecode bytes pad = .ok (strs.flatten.map (BitVec.ofNat 8)))))

/-- R322: for every byte sequence, decoding its LZW stream with its padding count gives the sequence back, with no
fault, however often the dictionary is cleared. The spec derives it from R314 and R316. -/
def Obligations.LzwRoundTrip : Prop :=
  ∀ xs : List Byte, lzwDecode (lzwEncode xs).1 (lzwEncode xs).2 = .ok xs

/-- `RLEE` and `RLED` (R327, R328, R329), once the common checks pass. `RLEE` delivers the pairs of its input, or raises
`E_CAP`. `RLED` raises `E_RLE_TRUNC` for a byte count that is no whole number of pairs; otherwise it replays every pair
literally, a count of 0 giving nothing, and delivers the elements or raises `E_CAP`. -/
def Obligations.RleCommands : Prop :=
  (∀ (s : State) (out : List Byte), s.TypedReady (s.len.toNat * s.ew.toNat) →
    out = rleEncode s.ew.toNat (s.readElems s.pa.toNat s.ew.toNat s.len.toNat) →
    (out.length ≤ s.cap.toNat → ∃ t, exec .rlee s = .next t ∧ Delivered s t (plainResult out))
    ∧ (s.cap.toNat < out.length → ∃ t, exec .rlee s = .next t ∧ TrappedLosingOutput s t ⟨.eCap, out.length⟩))
  ∧ (∀ (s : State) (xs : List Nat), s.TypedReady s.len.toNat →
    (s.len.toNat % (1 + s.ew.toNat) ≠ 0 →
      ∃ t, exec .rled s = .next t ∧ TrappedLosingOutput s t ⟨.eRleTrunc, s.len.toNat⟩)
    ∧ (s.len.toNat % (1 + s.ew.toNat) = 0 →
      xs = (List.range (s.len.toNat / (1 + s.ew.toNat))).flatMap (fun p =>
        List.replicate (s.readByte (s.pa.toNat + p * (1 + s.ew.toNat))).toNat
          (leValue (s.readBytes (s.pa.toNat + p * (1 + s.ew.toNat) + 1) s.ew.toNat))) →
      (xs.length * s.ew.toNat ≤ s.cap.toNat →
        ∃ t, exec .rled s = .next t ∧ t.olen.toNat = xs.length * s.ew.toNat
          ∧ Delivered s t (plainResult (serialize s.ew.toNat xs)))
      ∧ (s.cap.toNat < xs.length * s.ew.toNat →
        ∃ t, exec .rled s = .next t ∧ TrappedLosingOutput s t ⟨.eCap, xs.length * s.ew.toNat⟩)))

/-- R333: decoding what was encoded gives the elements back, with no fault; and re-encoding what was decoded gives the
same bytes only for bytes in the encoder's form, which the encoder's own output has. The spec derives it from R327 and
R329. -/
def Obligations.RleRoundTrip : Prop :=
  ∀ ew : Nat, ew = 1 ∨ ew = 2 ∨ ew = 4 →
    (∀ xs : List Nat, (∀ x ∈ xs, x < 256 ^ ew) → rleDecode ew (rleEncode ew xs) = .ok xs)
    ∧ (∀ (bytes : List Byte) (xs : List Nat), rleDecode ew bytes = .ok xs → rleEncode ew xs = bytes →
      RleForm (rlePairs ew (bytes.length / (1 + ew)) bytes))

/-! ### The container and the block compressor (49_block_container.md) -/

/-- R344: `HDRP` checks its output region, then its fields in file order, then the capacity, and writes the magic, the five
field bytes and, for a compression type of the padding set, the padding byte. -/
def Obligations.HdrpPacks : Prop :=
  ∀ (s : State) (legal : Nat → Prop) (out : List Byte),
    legal = HdrFieldLegal (s.hdr.extractLsb' 0 8).toNat (s.hdr.extractLsb' 8 8).toNat (s.hdr.extractLsb' 16 8).toNat
      (s.hdr.extractLsb' 24 7).toNat (s.hdr.extractLsb' 32 8).toNat (s.hdr.extractLsb' 40 8).toNat →
    out = [0x53, 0x46, 0x43, 0x43, s.hdr.extractLsb' 0 8, s.hdr.extractLsb' 8 8, s.hdr.extractLsb' 16 8,
      s.hdr.extractLsb' 24 8, s.hdr.extractLsb' 32 8]
      ++ (if (s.hdr.extractLsb' 32 8).toNat ∈ [2, 5, 6, 8] then [s.hdr.extractLsb' 40 8] else []) →
    (s.cfg.memSz < s.pb.toNat + s.cap.toNat →
      ∃ t, exec .hdrp s = .next t ∧ Trapped s t ⟨.eMemRange, s.pb.toNat⟩)
    ∧ (s.OutputReady →
      (∀ i, i ≤ 5 → (i = 5 → InPaddingSet (s.hdr.extractLsb' 32 8).toNat) → ¬ legal i → (∀ j < i, legal j) →
        ∃ t, exec .hdrp s = .next t ∧ TrappedLosingOutput s t ⟨.eHdrField, i⟩)
      ∧ ((∀ i ≤ 4, legal i) → (InPaddingSet (s.hdr.extractLsb' 32 8).toNat → legal 5) →
        (out.length ≤ s.cap.toNat → ∃ t, exec .hdrp s = .next t ∧ Delivered s t (plainResult out))
        ∧ (s.cap.toNat < out.length →
          ∃ t, exec .hdrp s = .next t ∧ TrappedLosingOutput s t ⟨.eCap, out.length⟩)))

/-- R346: `HDRU` checks, in order, `LEN`, the region, that nine bytes are there, the magic, the fields in file order, that
the padding byte is there and its range; then it sets `HDR`, `OLEN` to 0 and `USED` to the bytes of the header. It never
changes a byte of `MEM`. -/
def Obligations.HdruUnpacks : Prop :=
  ∀ (s : State) (b : Nat → Byte) (legal : Nat → Prop), b = (fun i => s.readByte (s.pa.toNat + i)) →
    legal = HdrFieldLegal (b 4).toNat (b 5).toNat (b 6).toNat ((b 7).toNat % 128) (b 8).toNat (b 9).toNat →
    (s.cfg.maxElems < s.len.toNat → ∃ t, exec .hdru s = .next t ∧ Trapped s t ⟨.eResource, s.len.toNat⟩)
    ∧ (s.len.toNat ≤ s.cfg.maxElems → s.cfg.memSz < s.pa.toNat + s.len.toNat →
      ∃ t, exec .hdru s = .next t ∧ Trapped s t ⟨.eMemRange, s.pa.toNat⟩)
    ∧ (s.InputReady s.len.toNat →
      (s.len.toNat < 9 → ∃ t, exec .hdru s = .next t ∧ Trapped s t ⟨.eBlkLen, 9⟩)
      ∧ (9 ≤ s.len.toNat →
        ((¬ (b 0 = 0x53 ∧ b 1 = 0x46 ∧ b 2 = 0x43 ∧ b 3 = 0x43)) →
          ∃ t, exec .hdru s = .next t ∧ Trapped s t ⟨.eHdrMagic, leValue [b 0, b 1, b 2, b 3]⟩)
        ∧ ((b 0 = 0x53 ∧ b 1 = 0x46 ∧ b 2 = 0x43 ∧ b 3 = 0x43) →
          (∀ i, i ≤ 4 → ¬ legal i → (∀ j < i, legal j) →
            ∃ t, exec .hdru s = .next t ∧ Trapped s t ⟨.eHdrField, i⟩)
          ∧ ((∀ i ≤ 4, legal i) →
            (InPaddingSet (b 8).toNat → s.len.toNat < 10 →
              ∃ t, exec .hdru s = .next t ∧ Trapped s t ⟨.eBlkLen, 10⟩)
            ∧ (InPaddingSet (b 8).toNat → 10 ≤ s.len.toNat → ¬ legal 5 →
              ∃ t, exec .hdru s = .next t ∧ Trapped s t ⟨.eHdrField, 5⟩)
            ∧ (InPaddingSet (b 8).toNat → 10 ≤ s.len.toNat → legal 5 →
              exec .hdru s = .next { s with
                hdr := BitVec.ofNat 64 (leValue [b 4, b 5, b 6, b 7, b 8, b 9]), olen := 0, used := 10 })
            ∧ (¬ InPaddingSet (b 8).toNat →
              exec .hdru s = .next { s with
                hdr := BitVec.ofNat 64 (leValue [b 4, b 5, b 6, b 7, b 8]), olen := 0, used := 9 })))))

/-- R349: unpacking the bytes that `HDRP` wrote, from where it wrote them, gives back the header with bits 63:48
cleared, and `NPAD` cleared where the padding byte is absent, and consumes as many bytes as were written. The spec
derives it from R344 and R346. -/
def Obligations.HeaderRoundTrip : Prop :=
  ∀ s t : State, s.err = false → exec .hdrp s = .next t → t.err = false → t.olen.toNat ≤ s.cfg.maxElems →
    ∃ u, exec .hdru { t with pa := t.pb, len := t.olen } = .next u ∧ u.err = false ∧ u.used = t.olen
      ∧ (InPaddingSet (s.hdr.extractLsb' 32 8).toNat → u.hdr = s.hdr &&& 0x0000FFFFFFFFFFFF)
      ∧ (¬ InPaddingSet (s.hdr.extractLsb' 32 8).toNat → u.hdr = s.hdr &&& 0x000000FFFFFFFFFF)

/-- `BLKC` (R352, R353, R357), once the common checks pass: a block whose length does not fit its field raises `E_RESOURCE`;
then an alphabet above `MTF_AMAX` raises `E_MTF_ALPHABET`; then the Huffman encoder's fault is raised; otherwise the result
is the block header of the stages that are on followed by the payload, delivered with the registers of those stages, or
`E_RESOURCE` where the payload does not fit its field, or `E_CAP`. -/
def Obligations.BlkcDelivers : Prop :=
  ∀ (s : State) (bwt mtf : Bool) (codec : BitVec 3) (xs s1 s2 : List Nat) (bytes : List Byte) (p : Nat),
    codec = 0 ∨ codec = 1 ∨ codec = 2 ∨ codec = 5 → s.TypedReady (s.len.toNat * s.ew.toNat) →
    xs = s.readElems s.pa.toNat s.ew.toNat s.len.toNat →
    (s1, p) = (if bwt then bwtForward xs else (xs, 0)) →
    s2 = (if mtf then mtfEncodeLoop (alphabet (blockMin s1) (blockMax s1)) s1 else s1) →
    bytes = s2.flatMap (leBytes s.ew.toNat) →
    (2 ^ 32 - 1 < s.len.toNat * s.ew.toNat →
      ∃ t, exec (.blkc bwt mtf codec) s = .next t ∧ TrappedLosingOutput s t ⟨.eResource, s.len.toNat⟩)
    ∧ (s.len.toNat * s.ew.toNat ≤ 2 ^ 32 - 1 →
      (mtf = true → s1 ≠ [] → s.cfg.mtfAmax < blockMax s1 - blockMin s1 + 1 →
        ∃ t, exec (.blkc bwt mtf codec) s = .next t
          ∧ TrappedLosingOutput s t ⟨.eMtfAlphabet, blockMax s1 - blockMin s1 + 1⟩)
      ∧ ((mtf = true → s1 ≠ [] → blockMax s1 - blockMin s1 + 1 ≤ s.cfg.mtfAmax) →
        (∀ e, codec = 2 → hufEncode s.cfg.hufMaxlen bytes = .error e →
          ∃ t, exec (.blkc bwt mtf codec) s = .next t ∧ TrappedLosingOutput s t e)
        ∧ ∀ pay pad, (codec = 0 → pay = bytes) → (codec = 1 → pay = rleEncode s.ew.toNat s2) →
          (codec = 2 → hufEncode s.cfg.hufMaxlen bytes = .ok (pay, pad)) →
          (codec = 5 → lzwEncode bytes = (pay, pad)) →
          (2 ^ 32 - 1 < pay.length →
            ∃ t, exec (.blkc bwt mtf codec) s = .next t ∧ TrappedLosingOutput s t ⟨.eResource, pay.length⟩)
          ∧ (pay.length ≤ 2 ^ 32 - 1 → ∀ out, out = leBytes 4 pay.length
              ++ (if codec = 2 ∨ codec = 5 then [BitVec.ofNat 8 pad] else [])
              ++ (if mtf then leBytes s.ew.toNat (blockMin s1) ++ leBytes s.ew.toNat (blockMax s1) else [])
              ++ (if bwt then leBytes 4 p else []) ++ pay →
            (out.length ≤ s.cap.toNat → ∃ t, exec (.blkc bwt mtf codec) s = .next t
              ∧ Delivered s t { plainResult out with
                  pidx := if bwt then some p else none
                  vmin := if mtf then some (blockMin s1) else none
                  vmax := if mtf then some (blockMax s1) else none
                  padb := if codec = 2 ∨ codec = 5 then some pad else none })
            ∧ (s.cap.toNat < out.length → ∃ t, exec (.blkc bwt mtf codec) s = .next t
              ∧ TrappedLosingOutput s t ⟨.eCap, out.length⟩))))

/-- `BLKD` (R360), once the common checks pass: fewer bytes than the block header, or than the header and its payload, raise
`E_BLK_LEN` with the bytes needed. Then, from the payload and the fields of the header alone, and in this order: the
codec's fault, that is `E_RLE_TRUNC` or whatever Huffman or LZW decoding of the payload with its padding count meets;
`E_BLK_ALIGN` for bytes that are no whole number of elements; `E_MTF_ALPHABET` and `E_MTF_RANK` where MTF is on;
`E_BWT_INDEX` where BWT is on and the elements, not being constant, are with the index the image of no
block; `E_CAP`; and
otherwise the elements are delivered, `USED` is the length of the block and the registers of the stages that are on hold
its fields. In particular an input that begins with a block some elements compress to under the same flags and `EW`
delivers those elements, whatever follows the block. -/
def Obligations.BlkdDelivers : Prop :=
  ∀ (s : State) (bwt mtf : Bool) (codec : BitVec 3) (c : Codec) (hsize pre : Nat), codecOf codec = some c →
    s.cfg.wf → s.TypedReady s.len.toNat → pre = (if codec = 2 ∨ codec = 5 then 5 else 4) →
    hsize = pre + (if mtf then 2 * s.ew.toNat else 0) + (if bwt then 4 else 0) →
    (s.len.toNat < hsize →
      ∃ t, exec (.blkd bwt mtf codec) s = .next t ∧ TrappedLosingOutput s t ⟨.eBlkLen, hsize⟩)
    ∧ (hsize ≤ s.len.toNat → s.len.toNat < hsize + leValue (s.readBytes s.pa.toNat 4) →
      ∃ t, exec (.blkd bwt mtf codec) s = .next t
        ∧ TrappedLosingOutput s t ⟨.eBlkLen, hsize + leValue (s.readBytes s.pa.toNat 4)⟩)
    ∧ (∀ (pay : List Byte) (pad mn mx p : Nat),
      pay = s.readBytes (s.pa.toNat + hsize) (leValue (s.readBytes s.pa.toNat 4)) → hsize + pay.length ≤ s.len.toNat →
      (codec = 2 ∨ codec = 5 → pad = (s.readByte (s.pa.toNat + 4)).toNat) →
      (mtf = true → mn = leValue (s.readBytes (s.pa.toNat + pre) s.ew.toNat)
        ∧ mx = leValue (s.readBytes (s.pa.toNat + pre + s.ew.toNat) s.ew.toNat)) →
      (bwt = true → p = leValue (s.readBytes (s.pa.toNat + hsize - 4) 4)) →
        (∀ e, (codec = 1 ∧ pay.length % (1 + s.ew.toNat) ≠ 0 ∧ e = ⟨.eRleTrunc, pay.length⟩)
            ∨ (codec = 2 ∧ hufDecode s.cfg.hufMaxlen pay pad = .error e)
            ∨ (codec = 5 ∧ lzwDecode pay pad = .error e) →
          ∃ t, exec (.blkd bwt mtf codec) s = .next t ∧ TrappedLosingOutput s t e)
        ∧ (∀ bytes, (codec = 0 ∧ bytes = pay) ∨ (codec = 2 ∧ hufDecode s.cfg.hufMaxlen pay pad = .ok bytes)
            ∨ (codec = 5 ∧ lzwDecode pay pad = .ok bytes) → bytes.length % s.ew.toNat ≠ 0 →
          ∃ t, exec (.blkd bwt mtf codec) s = .next t ∧ TrappedLosingOutput s t ⟨.eBlkAlign, bytes.length⟩)
        ∧ (∀ s1, PayloadHolds codec s.cfg.hufMaxlen s.ew.toNat pay pad s1 →
          (mtf = true → (mx < mn ∨ s.cfg.mtfAmax < mx - mn + 1) →
            ∃ t, exec (.blkd bwt mtf codec) s = .next t ∧ TrappedLosingOutput s t ⟨.eMtfAlphabet, mx⟩)
          ∧ (∀ k r, mtf = true → mn ≤ mx → mx - mn + 1 ≤ s.cfg.mtfAmax → s1[k]? = some r → mx - mn + 1 ≤ r →
            (∀ j < k, s1.getD j 0 < mx - mn + 1) →
              ∃ t, exec (.blkd bwt mtf codec) s = .next t ∧ TrappedLosingOutput s t ⟨.eMtfRank, k⟩)
          ∧ (∀ s2, (mtf = true → mn ≤ mx ∧ mx - mn + 1 ≤ s.cfg.mtfAmax ∧ mtfDecode s1 mn mx = .ok s2) →
            (mtf = false → s2 = s1) →
              (bwt = true → ¬ ConstantBlock s2 → (∀ xs, xs.Perm s2 → bwtForward xs ≠ (s2, p)) →
                ∃ t, exec (.blkd bwt mtf codec) s = .next t ∧ TrappedLosingOutput s t ⟨.eBwtIndex, p⟩)
              ∧ (∀ xs, (bwt = true → bwtForward xs = (s2, p) ∨ (ConstantBlock s2 ∧ xs = s2)) →
                (bwt = false → xs = s2) →
                  (xs.length * s.ew.toNat ≤ s.cap.toNat → ∃ t, exec (.blkd bwt mtf codec) s = .next t
                    ∧ Delivered s t {
                        out := serialize s.ew.toNat xs
                        used := some (hsize + pay.length)
                        pidx := if bwt then some p else none
                        vmin := if mtf then some mn else none
                        vmax := if mtf then some mx else none
                        padb := if codec = 2 ∨ codec = 5 then some pad else none })
                  ∧ (s.cap.toNat < xs.length * s.ew.toNat → ∃ t, exec (.blkd bwt mtf codec) s = .next t
                    ∧ TrappedLosingOutput s t ⟨.eCap, xs.length * s.ew.toNat⟩)))))
    ∧ (∀ (xs : List Nat) (b : BulkResult), (∀ x ∈ xs, x < 256 ^ s.ew.toNat) →
      blockCompress bwt mtf c s.cfg.mtfAmax s.cfg.hufMaxlen s.ew.toNat xs = .ok b →
      b.out.length ≤ s.len.toNat → s.readBytes s.pa.toNat b.out.length = b.out →
      (xs.length * s.ew.toNat ≤ s.cap.toNat → ∃ t, exec (.blkd bwt mtf codec) s = .next t
        ∧ Delivered s t { b with out := serialize s.ew.toNat xs, used := some b.out.length })
      ∧ (s.cap.toNat < xs.length * s.ew.toNat → ∃ t, exec (.blkd bwt mtf codec) s = .next t
        ∧ TrappedLosingOutput s t ⟨.eCap, xs.length * s.ew.toNat⟩))

/-- R362: where `BLKC` completes, `BLKD` with the same flags and `EW` on its output, given a region for its own output
that passes the common checks and holds the elements, completes, gives back the bytes that `BLKC` read, and its `USED`
is the `OLEN` of `BLKC`. The spec derives it from R357 and R360. -/
def Obligations.BlockRoundTrip : Prop :=
  ∀ (bwt mtf : Bool) (codec : BitVec 3) (s t u : State) (pb cap : Word),
    s.cfg.wf → s.err = false → exec (.blkc bwt mtf codec) s = .next t → t.err = false →
    u = { t with pa := t.pb, len := t.olen, pb := pb, cap := cap } → u.TypedReady u.len.toNat →
    s.len.toNat * s.ew.toNat ≤ cap.toNat →
      ∃ v, exec (.blkd bwt mtf codec) u = .next v ∧ v.err = false
        ∧ v.olen.toNat = s.len.toNat * s.ew.toNat
        ∧ v.readBytes pb.toNat (s.len.toNat * s.ew.toNat) = s.readBytes s.pa.toNat (s.len.toNat * s.ew.toNat)
        ∧ v.used = t.olen
end

