-- ==== Sys2Proof/Laws/Encoding.lean ====
section
/-! SUPPORT. The fields of a packed word, and the two conversions between slots and bits. -/

namespace Sys2Proof

@[simp] theorem slotOfBit_bitOfSlot (k : SlotId) : slotOfBit (bitOfSlot k) = k := by cases k <;> rfl

@[simp] theorem bitOfSlot_slotOfBit (b : BitVec 1) : bitOfSlot (slotOfBit b) = b := by
  revert b; decide

section pack
variable (opc : BitVec 8) (rd rs1 rs2 : RegIx) (imm8 : BitVec 8)

/-- Bit `j` of a packed word (R91). -/
theorem getLsbD_pack (j : Nat) : (pack opc rd rs1 rs2 imm8).getLsbD j =
    if j < 8 then opc.getLsbD j
    else if j < 12 then rd.getLsbD (j - 8)
    else if j < 16 then rs1.getLsbD (j - 12)
    else if j < 20 then rs2.getLsbD (j - 16)
    else imm8.getLsbD (j - 20) := by
  unfold pack
  change BitVec.getLsbD (0#4 ++ imm8 ++ rs2 ++ rs1 ++ rd ++ opc : BitVec (4 + 8 + 4 + 4 + 4 + 8)) j = _
  rw [BitVec.getLsbD_append, BitVec.getLsbD_append, BitVec.getLsbD_append, BitVec.getLsbD_append,
    BitVec.getLsbD_append]
  have e : j - 8 - 4 - 4 - 4 = j - 20 := by omega
  have e' : j - 8 - 4 - 4 = j - 16 := by omega
  have e'' : j - 8 - 4 = j - 12 := by omega
  rw [e, e', e'', BitVec.getLsbD_zero]
  split_ifs <;> first | rfl | omega | exact (BitVec.getLsbD_of_ge imm8 _ (by omega)).symm

@[simp] theorem fieldOpc_pack : fieldOpc (pack opc rd rs1 rs2 imm8) = opc := by
  apply BitVec.eq_of_getLsbD_eq
  intro j hj
  simp [fieldOpc, getLsbD_pack, hj]

@[simp] theorem fieldRd_pack : fieldRd (pack opc rd rs1 rs2 imm8) = rd := by
  apply BitVec.eq_of_getLsbD_eq
  intro j hj
  have h : 8 + j < 12 := by omega
  simp [fieldRd, getLsbD_pack, hj, h]

@[simp] theorem fieldRs1_pack : fieldRs1 (pack opc rd rs1 rs2 imm8) = rs1 := by
  apply BitVec.eq_of_getLsbD_eq
  intro j hj
  have h1 : ¬ 12 + j < 8 := by omega
  have h2 : 12 + j < 16 := by omega
  simp [fieldRs1, getLsbD_pack, hj, h1, h2]

@[simp] theorem fieldRs2_pack : fieldRs2 (pack opc rd rs1 rs2 imm8) = rs2 := by
  apply BitVec.eq_of_getLsbD_eq
  intro j hj
  have h1 : ¬ 16 + j < 8 := by omega
  have h2 : ¬ 16 + j < 12 := by omega
  have h3 : 16 + j < 20 := by omega
  simp [fieldRs2, getLsbD_pack, hj, h1, h2, h3]

@[simp] theorem fieldImm8_pack : fieldImm8 (pack opc rd rs1 rs2 imm8) = imm8 := by
  apply BitVec.eq_of_getLsbD_eq
  intro j hj
  have h1 : ¬ 20 + j < 8 := by omega
  have h2 : ¬ 20 + j < 12 := by omega
  have h3 : ¬ 20 + j < 16 := by omega
  simp [fieldImm8, getLsbD_pack, hj, h1, h2, h3]

@[simp] theorem fieldTop_pack : fieldTop (pack opc rd rs1 rs2 imm8) = 0 := by
  apply BitVec.eq_of_getLsbD_eq
  intro j hj
  have h1 : ¬ 28 + j < 8 := by omega
  have h2 : ¬ 28 + j < 12 := by omega
  have h3 : ¬ 28 + j < 16 := by omega
  have h4 : ¬ 28 + j < 20 := by omega
  have h5 : 28 + j - 20 = 8 + j := by omega
  simp [fieldTop, getLsbD_pack, h1, h2, h3, h4, h5]

end pack

/-- A word whose bits 31:28 are 0 is its fields put side by side (R91). -/
theorem pack_fields (w : CmdWord) (h : fieldTop w = 0) :
    pack (fieldOpc w) (fieldRd w) (fieldRs1 w) (fieldRs2 w) (fieldImm8 w) = w := by
  apply BitVec.eq_of_getLsbD_eq
  intro j hj
  rw [getLsbD_pack]
  split_ifs with h1 h2 h3 h4
  · simp [fieldOpc, h1]
  · have : 8 + (j - 8) = j := by omega
    have hj : j - 8 < 4 := by omega
    simp [fieldRd, this, hj]
  · have : 12 + (j - 12) = j := by omega
    have hj : j - 12 < 4 := by omega
    simp [fieldRs1, this, hj]
  · have : 16 + (j - 16) = j := by omega
    have hj : j - 16 < 4 := by omega
    simp [fieldRs2, this, hj]
  · have e : 20 + (j - 20) = j := by omega
    by_cases hlt : j < 28
    · have hj : j - 20 < 8 := by omega
      simp [fieldImm8, e, hj]
    · have ht : (fieldTop w).getLsbD (j - 28) = false := by rw [h]; simp
      have e' : 28 + (j - 28) = j := by omega
      have hj' : j - 28 < 4 := by omega
      have hn : ¬ j - 20 < 8 := by omega
      simp [fieldTop, e', hj'] at ht
      simp [fieldImm8, hn, ht]

end Sys2Proof
end

