-- ==== Sys2Proof/Laws/State.lean ====
section
/-! SUPPORT. For every named update of State, one lemma per field, so that no proof unfolds a record update. -/

namespace Sys2Proof.Machine

/-! ### `State.setReg` -/

@[simp] theorem State.setReg_cfg (s : State) (i : RegIx) (v : Word) : (s.setReg i v).cfg = s.cfg := rfl
@[simp] theorem State.setReg_r (s : State) (i : RegIx) (v : Word) : (s.setReg i v).r = s.r.set i.toNat v i.isLt := rfl
@[simp] theorem State.setReg_coords (s : State) (i : RegIx) (v : Word) : (s.setReg i v).coords = s.coords := rfl
@[simp] theorem State.setReg_busy (s : State) (i : RegIx) (v : Word) : (s.setReg i v).busy = s.busy := rfl
@[simp] theorem State.setReg_err (s : State) (i : RegIx) (v : Word) : (s.setReg i v).err = s.err := rfl
@[simp] theorem State.setReg_errcode (s : State) (i : RegIx) (v : Word) : (s.setReg i v).errcode = s.errcode := rfl
@[simp] theorem State.setReg_errinfo (s : State) (i : RegIx) (v : Word) : (s.setReg i v).errinfo = s.errinfo := rfl
@[simp] theorem State.setReg_icfg (s : State) (i : RegIx) (v : Word) : (s.setReg i v).icfg = s.icfg := rfl
@[simp] theorem State.setReg_curve0 (s : State) (i : RegIx) (v : Word) : (s.setReg i v).curve0 = s.curve0 := rfl
@[simp] theorem State.setReg_curve1 (s : State) (i : RegIx) (v : Word) : (s.setReg i v).curve1 = s.curve1 := rfl
@[simp] theorem State.setReg_pa (s : State) (i : RegIx) (v : Word) : (s.setReg i v).pa = s.pa := rfl
@[simp] theorem State.setReg_pb (s : State) (i : RegIx) (v : Word) : (s.setReg i v).pb = s.pb := rfl
@[simp] theorem State.setReg_len (s : State) (i : RegIx) (v : Word) : (s.setReg i v).len = s.len := rfl
@[simp] theorem State.setReg_cap (s : State) (i : RegIx) (v : Word) : (s.setReg i v).cap = s.cap := rfl
@[simp] theorem State.setReg_olen (s : State) (i : RegIx) (v : Word) : (s.setReg i v).olen = s.olen := rfl
@[simp] theorem State.setReg_used (s : State) (i : RegIx) (v : Word) : (s.setReg i v).used = s.used := rfl
@[simp] theorem State.setReg_pidx (s : State) (i : RegIx) (v : Word) : (s.setReg i v).pidx = s.pidx := rfl
@[simp] theorem State.setReg_vmin (s : State) (i : RegIx) (v : Word) : (s.setReg i v).vmin = s.vmin := rfl
@[simp] theorem State.setReg_vmax (s : State) (i : RegIx) (v : Word) : (s.setReg i v).vmax = s.vmax := rfl
@[simp] theorem State.setReg_padb (s : State) (i : RegIx) (v : Word) : (s.setReg i v).padb = s.padb := rfl
@[simp] theorem State.setReg_ew (s : State) (i : RegIx) (v : Word) : (s.setReg i v).ew = s.ew := rfl
@[simp] theorem State.setReg_hdr (s : State) (i : RegIx) (v : Word) : (s.setReg i v).hdr = s.hdr := rfl
@[simp] theorem State.setReg_mem (s : State) (i : RegIx) (v : Word) : (s.setReg i v).mem = s.mem := rfl
@[simp] theorem State.setReg_drawn (s : State) (i : RegIx) (v : Word) : (s.setReg i v).drawn = s.drawn := rfl
@[simp] theorem State.setReg_host (s : State) (i : RegIx) (v : Word) : (s.setReg i v).host = s.host := rfl
@[simp] theorem State.setReg_answers (s : State) (i : RegIx) (v : Word) : (s.setReg i v).answers = s.answers := rfl

/-! ### `State.setCoords` -/

@[simp] theorem State.setCoords_cfg (s : State) (v : List Nat) : (s.setCoords v).cfg = s.cfg := by unfold State.setCoords; rfl
@[simp] theorem State.setCoords_r (s : State) (v : List Nat) : (s.setCoords v).r = s.r := by unfold State.setCoords; rfl
@[simp] theorem State.setCoords_busy (s : State) (v : List Nat) : (s.setCoords v).busy = s.busy := by unfold State.setCoords; rfl
@[simp] theorem State.setCoords_err (s : State) (v : List Nat) : (s.setCoords v).err = s.err := by unfold State.setCoords; rfl
@[simp] theorem State.setCoords_errcode (s : State) (v : List Nat) : (s.setCoords v).errcode = s.errcode := by unfold State.setCoords; rfl
@[simp] theorem State.setCoords_errinfo (s : State) (v : List Nat) : (s.setCoords v).errinfo = s.errinfo := by unfold State.setCoords; rfl
@[simp] theorem State.setCoords_icfg (s : State) (v : List Nat) : (s.setCoords v).icfg = s.icfg := by unfold State.setCoords; rfl
@[simp] theorem State.setCoords_curve0 (s : State) (v : List Nat) : (s.setCoords v).curve0 = s.curve0 := by unfold State.setCoords; rfl
@[simp] theorem State.setCoords_curve1 (s : State) (v : List Nat) : (s.setCoords v).curve1 = s.curve1 := by unfold State.setCoords; rfl
@[simp] theorem State.setCoords_pa (s : State) (v : List Nat) : (s.setCoords v).pa = s.pa := by unfold State.setCoords; rfl
@[simp] theorem State.setCoords_pb (s : State) (v : List Nat) : (s.setCoords v).pb = s.pb := by unfold State.setCoords; rfl
@[simp] theorem State.setCoords_len (s : State) (v : List Nat) : (s.setCoords v).len = s.len := by unfold State.setCoords; rfl
@[simp] theorem State.setCoords_cap (s : State) (v : List Nat) : (s.setCoords v).cap = s.cap := by unfold State.setCoords; rfl
@[simp] theorem State.setCoords_olen (s : State) (v : List Nat) : (s.setCoords v).olen = s.olen := by unfold State.setCoords; rfl
@[simp] theorem State.setCoords_used (s : State) (v : List Nat) : (s.setCoords v).used = s.used := by unfold State.setCoords; rfl
@[simp] theorem State.setCoords_pidx (s : State) (v : List Nat) : (s.setCoords v).pidx = s.pidx := by unfold State.setCoords; rfl
@[simp] theorem State.setCoords_vmin (s : State) (v : List Nat) : (s.setCoords v).vmin = s.vmin := by unfold State.setCoords; rfl
@[simp] theorem State.setCoords_vmax (s : State) (v : List Nat) : (s.setCoords v).vmax = s.vmax := by unfold State.setCoords; rfl
@[simp] theorem State.setCoords_padb (s : State) (v : List Nat) : (s.setCoords v).padb = s.padb := by unfold State.setCoords; rfl
@[simp] theorem State.setCoords_ew (s : State) (v : List Nat) : (s.setCoords v).ew = s.ew := by unfold State.setCoords; rfl
@[simp] theorem State.setCoords_hdr (s : State) (v : List Nat) : (s.setCoords v).hdr = s.hdr := by unfold State.setCoords; rfl
@[simp] theorem State.setCoords_mem (s : State) (v : List Nat) : (s.setCoords v).mem = s.mem := by unfold State.setCoords; rfl
@[simp] theorem State.setCoords_drawn (s : State) (v : List Nat) : (s.setCoords v).drawn = s.drawn := by unfold State.setCoords; rfl
@[simp] theorem State.setCoords_host (s : State) (v : List Nat) : (s.setCoords v).host = s.host := by unfold State.setCoords; rfl
@[simp] theorem State.setCoords_answers (s : State) (v : List Nat) : (s.setCoords v).answers = s.answers := by unfold State.setCoords; rfl

/-! ### `State.setSlot` -/

@[simp] theorem State.setSlot_cfg (s : State) (k : SlotId) (v : CurveSlot) : (s.setSlot k v).cfg = s.cfg := by cases k <;> rfl
@[simp] theorem State.setSlot_r (s : State) (k : SlotId) (v : CurveSlot) : (s.setSlot k v).r = s.r := by cases k <;> rfl
@[simp] theorem State.setSlot_coords (s : State) (k : SlotId) (v : CurveSlot) : (s.setSlot k v).coords = s.coords := by cases k <;> rfl
@[simp] theorem State.setSlot_busy (s : State) (k : SlotId) (v : CurveSlot) : (s.setSlot k v).busy = s.busy := by cases k <;> rfl
@[simp] theorem State.setSlot_err (s : State) (k : SlotId) (v : CurveSlot) : (s.setSlot k v).err = s.err := by cases k <;> rfl
@[simp] theorem State.setSlot_errcode (s : State) (k : SlotId) (v : CurveSlot) : (s.setSlot k v).errcode = s.errcode := by cases k <;> rfl
@[simp] theorem State.setSlot_errinfo (s : State) (k : SlotId) (v : CurveSlot) : (s.setSlot k v).errinfo = s.errinfo := by cases k <;> rfl
@[simp] theorem State.setSlot_icfg (s : State) (k : SlotId) (v : CurveSlot) : (s.setSlot k v).icfg = s.icfg := by cases k <;> rfl
@[simp] theorem State.setSlot_pa (s : State) (k : SlotId) (v : CurveSlot) : (s.setSlot k v).pa = s.pa := by cases k <;> rfl
@[simp] theorem State.setSlot_pb (s : State) (k : SlotId) (v : CurveSlot) : (s.setSlot k v).pb = s.pb := by cases k <;> rfl
@[simp] theorem State.setSlot_len (s : State) (k : SlotId) (v : CurveSlot) : (s.setSlot k v).len = s.len := by cases k <;> rfl
@[simp] theorem State.setSlot_cap (s : State) (k : SlotId) (v : CurveSlot) : (s.setSlot k v).cap = s.cap := by cases k <;> rfl
@[simp] theorem State.setSlot_olen (s : State) (k : SlotId) (v : CurveSlot) : (s.setSlot k v).olen = s.olen := by cases k <;> rfl
@[simp] theorem State.setSlot_used (s : State) (k : SlotId) (v : CurveSlot) : (s.setSlot k v).used = s.used := by cases k <;> rfl
@[simp] theorem State.setSlot_pidx (s : State) (k : SlotId) (v : CurveSlot) : (s.setSlot k v).pidx = s.pidx := by cases k <;> rfl
@[simp] theorem State.setSlot_vmin (s : State) (k : SlotId) (v : CurveSlot) : (s.setSlot k v).vmin = s.vmin := by cases k <;> rfl
@[simp] theorem State.setSlot_vmax (s : State) (k : SlotId) (v : CurveSlot) : (s.setSlot k v).vmax = s.vmax := by cases k <;> rfl
@[simp] theorem State.setSlot_padb (s : State) (k : SlotId) (v : CurveSlot) : (s.setSlot k v).padb = s.padb := by cases k <;> rfl
@[simp] theorem State.setSlot_ew (s : State) (k : SlotId) (v : CurveSlot) : (s.setSlot k v).ew = s.ew := by cases k <;> rfl
@[simp] theorem State.setSlot_hdr (s : State) (k : SlotId) (v : CurveSlot) : (s.setSlot k v).hdr = s.hdr := by cases k <;> rfl
@[simp] theorem State.setSlot_mem (s : State) (k : SlotId) (v : CurveSlot) : (s.setSlot k v).mem = s.mem := by cases k <;> rfl
@[simp] theorem State.setSlot_drawn (s : State) (k : SlotId) (v : CurveSlot) : (s.setSlot k v).drawn = s.drawn := by cases k <;> rfl
@[simp] theorem State.setSlot_host (s : State) (k : SlotId) (v : CurveSlot) : (s.setSlot k v).host = s.host := by cases k <;> rfl
@[simp] theorem State.setSlot_answers (s : State) (k : SlotId) (v : CurveSlot) : (s.setSlot k v).answers = s.answers := by cases k <;> rfl

/-! ### `State.raise` -/

@[simp] theorem State.raise_cfg (s : State) (e : Raised) : (s.raise e).cfg = s.cfg := rfl
@[simp] theorem State.raise_r (s : State) (e : Raised) : (s.raise e).r = s.r := rfl
@[simp] theorem State.raise_coords (s : State) (e : Raised) : (s.raise e).coords = s.coords := rfl
@[simp] theorem State.raise_busy (s : State) (e : Raised) : (s.raise e).busy = false := rfl
@[simp] theorem State.raise_err (s : State) (e : Raised) : (s.raise e).err = true := rfl
@[simp] theorem State.raise_errcode (s : State) (e : Raised) : (s.raise e).errcode = errNumber e.code := rfl
@[simp] theorem State.raise_errinfo (s : State) (e : Raised) : (s.raise e).errinfo = BitVec.ofNat 64 e.info := rfl
@[simp] theorem State.raise_icfg (s : State) (e : Raised) : (s.raise e).icfg = s.icfg := rfl
@[simp] theorem State.raise_curve0 (s : State) (e : Raised) : (s.raise e).curve0 = s.curve0 := rfl
@[simp] theorem State.raise_curve1 (s : State) (e : Raised) : (s.raise e).curve1 = s.curve1 := rfl
@[simp] theorem State.raise_pa (s : State) (e : Raised) : (s.raise e).pa = s.pa := rfl
@[simp] theorem State.raise_pb (s : State) (e : Raised) : (s.raise e).pb = s.pb := rfl
@[simp] theorem State.raise_len (s : State) (e : Raised) : (s.raise e).len = s.len := rfl
@[simp] theorem State.raise_cap (s : State) (e : Raised) : (s.raise e).cap = s.cap := rfl
@[simp] theorem State.raise_olen (s : State) (e : Raised) : (s.raise e).olen = s.olen := rfl
@[simp] theorem State.raise_used (s : State) (e : Raised) : (s.raise e).used = s.used := rfl
@[simp] theorem State.raise_pidx (s : State) (e : Raised) : (s.raise e).pidx = s.pidx := rfl
@[simp] theorem State.raise_vmin (s : State) (e : Raised) : (s.raise e).vmin = s.vmin := rfl
@[simp] theorem State.raise_vmax (s : State) (e : Raised) : (s.raise e).vmax = s.vmax := rfl
@[simp] theorem State.raise_padb (s : State) (e : Raised) : (s.raise e).padb = s.padb := rfl
@[simp] theorem State.raise_ew (s : State) (e : Raised) : (s.raise e).ew = s.ew := rfl
@[simp] theorem State.raise_hdr (s : State) (e : Raised) : (s.raise e).hdr = s.hdr := rfl
@[simp] theorem State.raise_mem (s : State) (e : Raised) : (s.raise e).mem = s.mem := rfl
@[simp] theorem State.raise_drawn (s : State) (e : Raised) : (s.raise e).drawn = s.drawn := rfl
@[simp] theorem State.raise_host (s : State) (e : Raised) : (s.raise e).host = s.host := rfl
@[simp] theorem State.raise_answers (s : State) (e : Raised) : (s.raise e).answers = s.answers := rfl

/-! ### `State.clearErr` -/

@[simp] theorem State.clearErr_cfg (s : State) : s.clearErr.cfg = s.cfg := rfl
@[simp] theorem State.clearErr_r (s : State) : s.clearErr.r = s.r := rfl
@[simp] theorem State.clearErr_coords (s : State) : s.clearErr.coords = s.coords := rfl
@[simp] theorem State.clearErr_busy (s : State) : s.clearErr.busy = s.busy := rfl
@[simp] theorem State.clearErr_err (s : State) : s.clearErr.err = false := rfl
@[simp] theorem State.clearErr_errcode (s : State) : s.clearErr.errcode = 0 := rfl
@[simp] theorem State.clearErr_errinfo (s : State) : s.clearErr.errinfo = 0 := rfl
@[simp] theorem State.clearErr_icfg (s : State) : s.clearErr.icfg = s.icfg := rfl
@[simp] theorem State.clearErr_curve0 (s : State) : s.clearErr.curve0 = s.curve0 := rfl
@[simp] theorem State.clearErr_curve1 (s : State) : s.clearErr.curve1 = s.curve1 := rfl
@[simp] theorem State.clearErr_pa (s : State) : s.clearErr.pa = s.pa := rfl
@[simp] theorem State.clearErr_pb (s : State) : s.clearErr.pb = s.pb := rfl
@[simp] theorem State.clearErr_len (s : State) : s.clearErr.len = s.len := rfl
@[simp] theorem State.clearErr_cap (s : State) : s.clearErr.cap = s.cap := rfl
@[simp] theorem State.clearErr_olen (s : State) : s.clearErr.olen = s.olen := rfl
@[simp] theorem State.clearErr_used (s : State) : s.clearErr.used = s.used := rfl
@[simp] theorem State.clearErr_pidx (s : State) : s.clearErr.pidx = s.pidx := rfl
@[simp] theorem State.clearErr_vmin (s : State) : s.clearErr.vmin = s.vmin := rfl
@[simp] theorem State.clearErr_vmax (s : State) : s.clearErr.vmax = s.vmax := rfl
@[simp] theorem State.clearErr_padb (s : State) : s.clearErr.padb = s.padb := rfl
@[simp] theorem State.clearErr_ew (s : State) : s.clearErr.ew = s.ew := rfl
@[simp] theorem State.clearErr_hdr (s : State) : s.clearErr.hdr = s.hdr := rfl
@[simp] theorem State.clearErr_mem (s : State) : s.clearErr.mem = s.mem := rfl
@[simp] theorem State.clearErr_drawn (s : State) : s.clearErr.drawn = s.drawn := rfl
@[simp] theorem State.clearErr_host (s : State) : s.clearErr.host = s.host := rfl
@[simp] theorem State.clearErr_answers (s : State) : s.clearErr.answers = s.answers := rfl

/-! ### `State.writeBytes` -/

@[simp] theorem State.writeBytes_cfg (s : State) (a : Nat) (bs : List Byte) : (s.writeBytes a bs).cfg = s.cfg := rfl
@[simp] theorem State.writeBytes_r (s : State) (a : Nat) (bs : List Byte) : (s.writeBytes a bs).r = s.r := rfl
@[simp] theorem State.writeBytes_coords (s : State) (a : Nat) (bs : List Byte) : (s.writeBytes a bs).coords = s.coords := rfl
@[simp] theorem State.writeBytes_busy (s : State) (a : Nat) (bs : List Byte) : (s.writeBytes a bs).busy = s.busy := rfl
@[simp] theorem State.writeBytes_err (s : State) (a : Nat) (bs : List Byte) : (s.writeBytes a bs).err = s.err := rfl
@[simp] theorem State.writeBytes_errcode (s : State) (a : Nat) (bs : List Byte) : (s.writeBytes a bs).errcode = s.errcode := rfl
@[simp] theorem State.writeBytes_errinfo (s : State) (a : Nat) (bs : List Byte) : (s.writeBytes a bs).errinfo = s.errinfo := rfl
@[simp] theorem State.writeBytes_icfg (s : State) (a : Nat) (bs : List Byte) : (s.writeBytes a bs).icfg = s.icfg := rfl
@[simp] theorem State.writeBytes_curve0 (s : State) (a : Nat) (bs : List Byte) : (s.writeBytes a bs).curve0 = s.curve0 := rfl
@[simp] theorem State.writeBytes_curve1 (s : State) (a : Nat) (bs : List Byte) : (s.writeBytes a bs).curve1 = s.curve1 := rfl
@[simp] theorem State.writeBytes_pa (s : State) (a : Nat) (bs : List Byte) : (s.writeBytes a bs).pa = s.pa := rfl
@[simp] theorem State.writeBytes_pb (s : State) (a : Nat) (bs : List Byte) : (s.writeBytes a bs).pb = s.pb := rfl
@[simp] theorem State.writeBytes_len (s : State) (a : Nat) (bs : List Byte) : (s.writeBytes a bs).len = s.len := rfl
@[simp] theorem State.writeBytes_cap (s : State) (a : Nat) (bs : List Byte) : (s.writeBytes a bs).cap = s.cap := rfl
@[simp] theorem State.writeBytes_olen (s : State) (a : Nat) (bs : List Byte) : (s.writeBytes a bs).olen = s.olen := rfl
@[simp] theorem State.writeBytes_used (s : State) (a : Nat) (bs : List Byte) : (s.writeBytes a bs).used = s.used := rfl
@[simp] theorem State.writeBytes_pidx (s : State) (a : Nat) (bs : List Byte) : (s.writeBytes a bs).pidx = s.pidx := rfl
@[simp] theorem State.writeBytes_vmin (s : State) (a : Nat) (bs : List Byte) : (s.writeBytes a bs).vmin = s.vmin := rfl
@[simp] theorem State.writeBytes_vmax (s : State) (a : Nat) (bs : List Byte) : (s.writeBytes a bs).vmax = s.vmax := rfl
@[simp] theorem State.writeBytes_padb (s : State) (a : Nat) (bs : List Byte) : (s.writeBytes a bs).padb = s.padb := rfl
@[simp] theorem State.writeBytes_ew (s : State) (a : Nat) (bs : List Byte) : (s.writeBytes a bs).ew = s.ew := rfl
@[simp] theorem State.writeBytes_hdr (s : State) (a : Nat) (bs : List Byte) : (s.writeBytes a bs).hdr = s.hdr := rfl
@[simp] theorem State.writeBytes_mem (s : State) (a : Nat) (bs : List Byte) : (s.writeBytes a bs).mem = s.mem.writeBytes a bs := rfl
@[simp] theorem State.writeBytes_drawn (s : State) (a : Nat) (bs : List Byte) : (s.writeBytes a bs).drawn = s.drawn := rfl
@[simp] theorem State.writeBytes_host (s : State) (a : Nat) (bs : List Byte) : (s.writeBytes a bs).host = s.host := rfl
@[simp] theorem State.writeBytes_answers (s : State) (a : Nat) (bs : List Byte) : (s.writeBytes a bs).answers = s.answers := rfl

/-! ### `State.loseOutput` -/

@[simp] theorem State.loseOutput_cfg (s : State) : s.loseOutput.cfg = s.cfg := by unfold State.loseOutput; split <;> rfl
@[simp] theorem State.loseOutput_r (s : State) : s.loseOutput.r = s.r := by unfold State.loseOutput; split <;> rfl
@[simp] theorem State.loseOutput_coords (s : State) : s.loseOutput.coords = s.coords := by unfold State.loseOutput; split <;> rfl
@[simp] theorem State.loseOutput_busy (s : State) : s.loseOutput.busy = s.busy := by unfold State.loseOutput; split <;> rfl
@[simp] theorem State.loseOutput_err (s : State) : s.loseOutput.err = s.err := by unfold State.loseOutput; split <;> rfl
@[simp] theorem State.loseOutput_errcode (s : State) : s.loseOutput.errcode = s.errcode := by unfold State.loseOutput; split <;> rfl
@[simp] theorem State.loseOutput_errinfo (s : State) : s.loseOutput.errinfo = s.errinfo := by unfold State.loseOutput; split <;> rfl
@[simp] theorem State.loseOutput_icfg (s : State) : s.loseOutput.icfg = s.icfg := by unfold State.loseOutput; split <;> rfl
@[simp] theorem State.loseOutput_curve0 (s : State) : s.loseOutput.curve0 = s.curve0 := by unfold State.loseOutput; split <;> rfl
@[simp] theorem State.loseOutput_curve1 (s : State) : s.loseOutput.curve1 = s.curve1 := by unfold State.loseOutput; split <;> rfl
@[simp] theorem State.loseOutput_pa (s : State) : s.loseOutput.pa = s.pa := by unfold State.loseOutput; split <;> rfl
@[simp] theorem State.loseOutput_pb (s : State) : s.loseOutput.pb = s.pb := by unfold State.loseOutput; split <;> rfl
@[simp] theorem State.loseOutput_len (s : State) : s.loseOutput.len = s.len := by unfold State.loseOutput; split <;> rfl
@[simp] theorem State.loseOutput_cap (s : State) : s.loseOutput.cap = s.cap := by unfold State.loseOutput; split <;> rfl
@[simp] theorem State.loseOutput_olen (s : State) : s.loseOutput.olen = s.olen := by unfold State.loseOutput; split <;> rfl
@[simp] theorem State.loseOutput_used (s : State) : s.loseOutput.used = s.used := by unfold State.loseOutput; split <;> rfl
@[simp] theorem State.loseOutput_pidx (s : State) : s.loseOutput.pidx = s.pidx := by unfold State.loseOutput; split <;> rfl
@[simp] theorem State.loseOutput_vmin (s : State) : s.loseOutput.vmin = s.vmin := by unfold State.loseOutput; split <;> rfl
@[simp] theorem State.loseOutput_vmax (s : State) : s.loseOutput.vmax = s.vmax := by unfold State.loseOutput; split <;> rfl
@[simp] theorem State.loseOutput_padb (s : State) : s.loseOutput.padb = s.padb := by unfold State.loseOutput; split <;> rfl
@[simp] theorem State.loseOutput_ew (s : State) : s.loseOutput.ew = s.ew := by unfold State.loseOutput; split <;> rfl
@[simp] theorem State.loseOutput_hdr (s : State) : s.loseOutput.hdr = s.hdr := by unfold State.loseOutput; split <;> rfl
@[simp] theorem State.loseOutput_host (s : State) : s.loseOutput.host = s.host := by unfold State.loseOutput; split <;> rfl
@[simp] theorem State.loseOutput_answers (s : State) : s.loseOutput.answers = s.answers := by unfold State.loseOutput; split <;> rfl

/-! ### `State.complete` -/

@[simp] theorem State.complete_cfg (s : State) (b : BulkResult) : (s.complete b).cfg = s.cfg := rfl
@[simp] theorem State.complete_r (s : State) (b : BulkResult) : (s.complete b).r = s.r := rfl
@[simp] theorem State.complete_coords (s : State) (b : BulkResult) : (s.complete b).coords = s.coords := rfl
@[simp] theorem State.complete_busy (s : State) (b : BulkResult) : (s.complete b).busy = s.busy := rfl
@[simp] theorem State.complete_err (s : State) (b : BulkResult) : (s.complete b).err = s.err := rfl
@[simp] theorem State.complete_errcode (s : State) (b : BulkResult) : (s.complete b).errcode = s.errcode := rfl
@[simp] theorem State.complete_errinfo (s : State) (b : BulkResult) : (s.complete b).errinfo = s.errinfo := rfl
@[simp] theorem State.complete_icfg (s : State) (b : BulkResult) : (s.complete b).icfg = s.icfg := rfl
@[simp] theorem State.complete_curve0 (s : State) (b : BulkResult) : (s.complete b).curve0 = s.curve0 := rfl
@[simp] theorem State.complete_curve1 (s : State) (b : BulkResult) : (s.complete b).curve1 = s.curve1 := rfl
@[simp] theorem State.complete_pa (s : State) (b : BulkResult) : (s.complete b).pa = s.pa := rfl
@[simp] theorem State.complete_pb (s : State) (b : BulkResult) : (s.complete b).pb = s.pb := rfl
@[simp] theorem State.complete_len (s : State) (b : BulkResult) : (s.complete b).len = s.len := rfl
@[simp] theorem State.complete_cap (s : State) (b : BulkResult) : (s.complete b).cap = s.cap := rfl
@[simp] theorem State.complete_olen (s : State) (b : BulkResult) : (s.complete b).olen = BitVec.ofNat 64 b.out.length := rfl
@[simp] theorem State.complete_used (s : State) (b : BulkResult) : (s.complete b).used = updateWord s.used b.used := rfl
@[simp] theorem State.complete_pidx (s : State) (b : BulkResult) : (s.complete b).pidx = updateWord s.pidx b.pidx := rfl
@[simp] theorem State.complete_vmin (s : State) (b : BulkResult) : (s.complete b).vmin = updateWord s.vmin b.vmin := rfl
@[simp] theorem State.complete_vmax (s : State) (b : BulkResult) : (s.complete b).vmax = updateWord s.vmax b.vmax := rfl
@[simp] theorem State.complete_padb (s : State) (b : BulkResult) : (s.complete b).padb = updateWord s.padb b.padb := rfl
@[simp] theorem State.complete_ew (s : State) (b : BulkResult) : (s.complete b).ew = s.ew := rfl
@[simp] theorem State.complete_hdr (s : State) (b : BulkResult) : (s.complete b).hdr = s.hdr := rfl
@[simp] theorem State.complete_mem (s : State) (b : BulkResult) : (s.complete b).mem = s.mem.writeBytes s.pb.toNat b.out := rfl
@[simp] theorem State.complete_drawn (s : State) (b : BulkResult) : (s.complete b).drawn = s.drawn := rfl
@[simp] theorem State.complete_host (s : State) (b : BulkResult) : (s.complete b).host = s.host := rfl
@[simp] theorem State.complete_answers (s : State) (b : BulkResult) : (s.complete b).answers = s.answers := rfl

/-! ### `State.answer` -/

@[simp] theorem State.answer_cfg (s : State) (v : Word) : (s.answer v).cfg = s.cfg := rfl
@[simp] theorem State.answer_r (s : State) (v : Word) : (s.answer v).r = s.r := rfl
@[simp] theorem State.answer_coords (s : State) (v : Word) : (s.answer v).coords = s.coords := rfl
@[simp] theorem State.answer_busy (s : State) (v : Word) : (s.answer v).busy = s.busy := rfl
@[simp] theorem State.answer_err (s : State) (v : Word) : (s.answer v).err = s.err := rfl
@[simp] theorem State.answer_errcode (s : State) (v : Word) : (s.answer v).errcode = s.errcode := rfl
@[simp] theorem State.answer_errinfo (s : State) (v : Word) : (s.answer v).errinfo = s.errinfo := rfl
@[simp] theorem State.answer_icfg (s : State) (v : Word) : (s.answer v).icfg = s.icfg := rfl
@[simp] theorem State.answer_curve0 (s : State) (v : Word) : (s.answer v).curve0 = s.curve0 := rfl
@[simp] theorem State.answer_curve1 (s : State) (v : Word) : (s.answer v).curve1 = s.curve1 := rfl
@[simp] theorem State.answer_pa (s : State) (v : Word) : (s.answer v).pa = s.pa := rfl
@[simp] theorem State.answer_pb (s : State) (v : Word) : (s.answer v).pb = s.pb := rfl
@[simp] theorem State.answer_len (s : State) (v : Word) : (s.answer v).len = s.len := rfl
@[simp] theorem State.answer_cap (s : State) (v : Word) : (s.answer v).cap = s.cap := rfl
@[simp] theorem State.answer_olen (s : State) (v : Word) : (s.answer v).olen = s.olen := rfl
@[simp] theorem State.answer_used (s : State) (v : Word) : (s.answer v).used = s.used := rfl
@[simp] theorem State.answer_pidx (s : State) (v : Word) : (s.answer v).pidx = s.pidx := rfl
@[simp] theorem State.answer_vmin (s : State) (v : Word) : (s.answer v).vmin = s.vmin := rfl
@[simp] theorem State.answer_vmax (s : State) (v : Word) : (s.answer v).vmax = s.vmax := rfl
@[simp] theorem State.answer_padb (s : State) (v : Word) : (s.answer v).padb = s.padb := rfl
@[simp] theorem State.answer_ew (s : State) (v : Word) : (s.answer v).ew = s.ew := rfl
@[simp] theorem State.answer_hdr (s : State) (v : Word) : (s.answer v).hdr = s.hdr := rfl
@[simp] theorem State.answer_mem (s : State) (v : Word) : (s.answer v).mem = s.mem := rfl
@[simp] theorem State.answer_drawn (s : State) (v : Word) : (s.answer v).drawn = s.drawn := rfl
@[simp] theorem State.answer_host (s : State) (v : Word) : (s.answer v).host = s.host := rfl
@[simp] theorem State.answer_answers (s : State) (v : Word) : (s.answer v).answers = v :: s.answers := rfl

/-! ### `State.withFetchWord` -/

@[simp] theorem State.withFetchWord_cfg (s : State) (nbits w : Nat) : (s.withFetchWord nbits w).cfg = s.cfg := rfl
@[simp] theorem State.withFetchWord_r (s : State) (nbits w : Nat) : (s.withFetchWord nbits w).r = s.r := rfl
@[simp] theorem State.withFetchWord_coords (s : State) (nbits w : Nat) : (s.withFetchWord nbits w).coords = s.coords := rfl
@[simp] theorem State.withFetchWord_busy (s : State) (nbits w : Nat) : (s.withFetchWord nbits w).busy = s.busy := rfl
@[simp] theorem State.withFetchWord_err (s : State) (nbits w : Nat) : (s.withFetchWord nbits w).err = s.err := rfl
@[simp] theorem State.withFetchWord_errcode (s : State) (nbits w : Nat) : (s.withFetchWord nbits w).errcode = s.errcode := rfl
@[simp] theorem State.withFetchWord_errinfo (s : State) (nbits w : Nat) : (s.withFetchWord nbits w).errinfo = s.errinfo := rfl
@[simp] theorem State.withFetchWord_icfg (s : State) (nbits w : Nat) : (s.withFetchWord nbits w).icfg = s.icfg := rfl
@[simp] theorem State.withFetchWord_curve0 (s : State) (nbits w : Nat) : (s.withFetchWord nbits w).curve0 = s.curve0 := rfl
@[simp] theorem State.withFetchWord_curve1 (s : State) (nbits w : Nat) : (s.withFetchWord nbits w).curve1 = s.curve1 := rfl
@[simp] theorem State.withFetchWord_pa (s : State) (nbits w : Nat) : (s.withFetchWord nbits w).pa = s.pa := rfl
@[simp] theorem State.withFetchWord_pb (s : State) (nbits w : Nat) : (s.withFetchWord nbits w).pb = s.pb := rfl
@[simp] theorem State.withFetchWord_len (s : State) (nbits w : Nat) : (s.withFetchWord nbits w).len = s.len := rfl
@[simp] theorem State.withFetchWord_cap (s : State) (nbits w : Nat) : (s.withFetchWord nbits w).cap = s.cap := rfl
@[simp] theorem State.withFetchWord_olen (s : State) (nbits w : Nat) : (s.withFetchWord nbits w).olen = s.olen := rfl
@[simp] theorem State.withFetchWord_used (s : State) (nbits w : Nat) : (s.withFetchWord nbits w).used = s.used := rfl
@[simp] theorem State.withFetchWord_pidx (s : State) (nbits w : Nat) : (s.withFetchWord nbits w).pidx = s.pidx := rfl
@[simp] theorem State.withFetchWord_vmin (s : State) (nbits w : Nat) : (s.withFetchWord nbits w).vmin = s.vmin := rfl
@[simp] theorem State.withFetchWord_vmax (s : State) (nbits w : Nat) : (s.withFetchWord nbits w).vmax = s.vmax := rfl
@[simp] theorem State.withFetchWord_padb (s : State) (nbits w : Nat) : (s.withFetchWord nbits w).padb = s.padb := rfl
@[simp] theorem State.withFetchWord_ew (s : State) (nbits w : Nat) : (s.withFetchWord nbits w).ew = s.ew := rfl
@[simp] theorem State.withFetchWord_hdr (s : State) (nbits w : Nat) : (s.withFetchWord nbits w).hdr = s.hdr := rfl
@[simp] theorem State.withFetchWord_mem (s : State) (nbits w : Nat) : (s.withFetchWord nbits w).mem = s.mem := rfl
@[simp] theorem State.withFetchWord_drawn (s : State) (nbits w : Nat) : (s.withFetchWord nbits w).drawn = s.drawn := rfl
@[simp] theorem State.withFetchWord_host (s : State) (nbits w : Nat) : (s.withFetchWord nbits w).host = .issue (tableWord nbits w) :: s.host := rfl
@[simp] theorem State.withFetchWord_answers (s : State) (nbits w : Nat) : (s.withFetchWord nbits w).answers = s.answers := rfl

/-! ### `State.hostReset` -/

@[simp] theorem State.hostReset_cfg (s : State) : s.hostReset.cfg = s.cfg := rfl
@[simp] theorem State.hostReset_r (s : State) : s.hostReset.r = State.reset.r := rfl
@[simp] theorem State.hostReset_coords (s : State) : s.hostReset.coords = State.reset.coords := rfl
@[simp] theorem State.hostReset_busy (s : State) : s.hostReset.busy = State.reset.busy := rfl
@[simp] theorem State.hostReset_err (s : State) : s.hostReset.err = State.reset.err := rfl
@[simp] theorem State.hostReset_errcode (s : State) : s.hostReset.errcode = State.reset.errcode := rfl
@[simp] theorem State.hostReset_errinfo (s : State) : s.hostReset.errinfo = State.reset.errinfo := rfl
@[simp] theorem State.hostReset_icfg (s : State) : s.hostReset.icfg = State.reset.icfg := rfl
@[simp] theorem State.hostReset_curve0 (s : State) : s.hostReset.curve0 = State.reset.curve0 := rfl
@[simp] theorem State.hostReset_curve1 (s : State) : s.hostReset.curve1 = State.reset.curve1 := rfl
@[simp] theorem State.hostReset_pa (s : State) : s.hostReset.pa = State.reset.pa := rfl
@[simp] theorem State.hostReset_pb (s : State) : s.hostReset.pb = State.reset.pb := rfl
@[simp] theorem State.hostReset_len (s : State) : s.hostReset.len = State.reset.len := rfl
@[simp] theorem State.hostReset_cap (s : State) : s.hostReset.cap = State.reset.cap := rfl
@[simp] theorem State.hostReset_olen (s : State) : s.hostReset.olen = State.reset.olen := rfl
@[simp] theorem State.hostReset_used (s : State) : s.hostReset.used = State.reset.used := rfl
@[simp] theorem State.hostReset_pidx (s : State) : s.hostReset.pidx = State.reset.pidx := rfl
@[simp] theorem State.hostReset_vmin (s : State) : s.hostReset.vmin = State.reset.vmin := rfl
@[simp] theorem State.hostReset_vmax (s : State) : s.hostReset.vmax = State.reset.vmax := rfl
@[simp] theorem State.hostReset_padb (s : State) : s.hostReset.padb = State.reset.padb := rfl
@[simp] theorem State.hostReset_ew (s : State) : s.hostReset.ew = State.reset.ew := rfl
@[simp] theorem State.hostReset_hdr (s : State) : s.hostReset.hdr = State.reset.hdr := rfl
@[simp] theorem State.hostReset_mem (s : State) : s.hostReset.mem = s.mem := rfl
@[simp] theorem State.hostReset_drawn (s : State) : s.hostReset.drawn = s.drawn := rfl
@[simp] theorem State.hostReset_host (s : State) : s.hostReset.host = s.host := rfl
@[simp] theorem State.hostReset_answers (s : State) : s.hostReset.answers = s.answers := rfl

/-! ### Slots, registers and `updateWord` -/

@[simp] theorem State.slot_setSlot_same (s : State) (k : SlotId) (v : CurveSlot) : (s.setSlot k v).slot k = v := by
  cases k <;> rfl

theorem State.slot_setSlot_other (s : State) (j k : SlotId) (v : CurveSlot) (h : j ≠ k) :
    (s.setSlot k v).slot j = s.slot j := by
  cases j <;> cases k <;> first | rfl | exact absurd rfl h

@[simp] theorem State.reg_setReg_same (s : State) (i : RegIx) (v : Word) : (s.setReg i v).reg i = v := by
  simp [State.reg, State.setReg, Vector.get_eq_getElem]

theorem State.reg_setReg_other (s : State) (i j : RegIx) (v : Word) (h : j ≠ i) :
    (s.setReg i v).reg j = s.reg j := by
  have h' : i.toNat ≠ j.toNat := fun e => h (BitVec.eq_of_toNat_eq e.symm)
  simp [State.reg, State.setReg, Vector.get_eq_getElem, h']

@[simp] theorem updateWord_some (old : Word) (n : Nat) : updateWord old (some n) = BitVec.ofNat 64 n := rfl

@[simp] theorem updateWord_none (old : Word) : updateWord old none = old := rfl

/-- The coordinates after `D2C`'s write: the new ones below the length of the list, the old ones from there on. -/
theorem State.coord_setCoords (s : State) (v : List Nat) (i : Nat) (h : i < 64) :
    (s.setCoords v).coord i = if hv : i < v.length then BitVec.ofNat 32 v[i] else s.coord i := by
  by_cases hv : i < v.length <;> simp [State.coord, State.setCoords, h, hv, Vector.get_eq_getElem]

end Sys2Proof.Machine
end

