-- ==== Sys2Proof/Laws/Memory.lean ====
section
/-! SUPPORT. The laws of the memory operations: what a read finds after a write or after bytes are forgotten, that every
operation keeps the canonical form, and that the canonical form makes equal contents equal lists. -/

namespace Sys2Proof.Machine

/-! ### One byte -/

/-- A write gives the byte written at its address and leaves every other address alone. -/
theorem Memory.find_write (m : Memory) (a x : Nat) (v : Byte) :
    (m.write a v).find x = if x = a then some v else m.find x := by
  induction m with
  | nil =>
    by_cases h : a = x
    · subst h; simp [Memory.write, Memory.find]
    · simp [Memory.write, Memory.find, h, Ne.symm h]
  | cons c m ih =>
    obtain ⟨k, b⟩ := c
    by_cases hx : x = a
    · subst hx
      by_cases h₁ : x < k
      · simp [Memory.write, Memory.find, h₁]
      · by_cases h₂ : x = k
        · simp [Memory.write, Memory.find, h₂]
        · simp [Memory.write, Memory.find, h₁, h₂, Ne.symm h₂, ih]
    · by_cases h₁ : a < k
      · simp [Memory.write, Memory.find, h₁, hx, Ne.symm hx]
      · by_cases h₂ : a = k
        · subst h₂; simp [Memory.write, Memory.find, hx, Ne.symm hx]
        · rw [Memory.write, if_neg h₁, if_neg h₂, Memory.find, Memory.find, ih, if_neg hx]
          split_ifs <;> rfl

/-- The addresses of a written memory are the old ones and the one written. -/
theorem Memory.mem_write {m : Memory} {a : Nat} {v : Byte} {y : Host.Cell} (h : y ∈ m.write a v) :
    y = (a, v) ∨ y ∈ m := by
  induction m with
  | nil => simpa [Memory.write] using h
  | cons c m ih =>
    obtain ⟨k, b⟩ := c
    unfold Memory.write at h
    split_ifs at h with h₁ h₂
    · simpa using h
    · rcases List.mem_cons.mp h with h | h
      · exact .inl h
      · exact .inr (List.mem_cons_of_mem _ h)
    · rcases List.mem_cons.mp h with h | h
      · exact .inr (h ▸ List.mem_cons_self ..)
      · exact (ih h).imp_right (List.mem_cons_of_mem _)

theorem Memory.write_wf {m : Memory} (h : m.wf) (a : Nat) (v : Byte) : (m.write a v).wf := by
  induction m with
  | nil => simp [Memory.write, Memory.wf]
  | cons c m ih =>
    obtain ⟨k, b⟩ := c
    obtain ⟨hk, hm⟩ := List.pairwise_cons.mp h
    unfold Memory.write
    split_ifs with h₁ h₂
    · refine List.pairwise_cons.mpr ⟨fun y hy => ?_, h⟩
      rcases List.mem_cons.mp hy with rfl | hy
      · exact h₁
      · exact lt_trans h₁ (hk y hy)
    · subst h₂
      exact List.pairwise_cons.mpr ⟨hk, hm⟩
    · refine List.pairwise_cons.mpr ⟨fun y hy => ?_, ih hm⟩
      rcases Memory.mem_write hy with rfl | hy
      · show k < a
        omega
      · exact hk y hy

/-! ### A run of bytes -/

/-- What stands at an address after a run of bytes is written. -/
theorem Memory.find_writeBytes (m : Memory) (a x : Nat) (bs : List Byte) :
    (m.writeBytes a bs).find x =
      if a ≤ x ∧ x < a + bs.length then some (bs.getD (x - a) 0) else m.find x := by
  induction bs generalizing m a with
  | nil =>
    have h : ¬ (a ≤ x ∧ x < a + ([] : List Byte).length) := by simp
    rw [if_neg h]; rfl
  | cons b bs ih =>
    rw [Memory.writeBytes, ih, Memory.find_write]
    by_cases hx : x = a
    · subst hx; simp
    · by_cases hlt : a + 1 ≤ x ∧ x < a + 1 + bs.length
      · have h2 : a ≤ x ∧ x < a + (b :: bs).length := by simp; omega
        have h3 : x - a = (x - (a + 1)) + 1 := by omega
        rw [if_pos hlt, if_pos h2, h3]; simp
      · have h2 : ¬ (a ≤ x ∧ x < a + (b :: bs).length) := by simp; omega
        rw [if_neg hlt, if_neg h2, if_neg hx]

theorem Memory.writeBytes_wf {m : Memory} (h : m.wf) (a : Nat) (bs : List Byte) : (m.writeBytes a bs).wf := by
  induction bs generalizing m a with
  | nil => exact h
  | cons b bs ih => exact ih (Memory.write_wf h a b) (a + 1)

/-- The addresses of a memory after a run of bytes is written are the old ones and those of the run. -/
theorem Memory.mem_writeBytes {m : Memory} {a : Nat} {bs : List Byte} {y : Host.Cell}
    (h : y ∈ m.writeBytes a bs) : y ∈ m ∨ (a ≤ y.1 ∧ y.1 < a + bs.length) := by
  induction bs generalizing m a with
  | nil => exact .inl h
  | cons b bs ih =>
    rcases ih h with h | h
    · rcases Memory.mem_write h with rfl | h
      · exact .inr ⟨le_refl _, by simp⟩
      · exact .inl h
    · exact .inr ⟨by omega, by simp; omega⟩

/-! ### Forgetting bytes -/

/-- Forgotten addresses have no byte, the others keep theirs. -/
theorem Memory.find_forget (m : Memory) (base n x : Nat) :
    (m.forget base n).find x = if base ≤ x ∧ x < base + n then none else m.find x := by
  induction m with
  | nil => simp [Memory.forget, Memory.find]
  | cons c m ih =>
    obtain ⟨k, b⟩ := c
    unfold Memory.forget at ih ⊢
    by_cases hk : base ≤ k ∧ k < base + n
    · rw [List.filter_cons_of_neg (by simp [hk]), ih]
      by_cases hx : base ≤ x ∧ x < base + n
      · simp [hx]
      · have : ¬ k = x := fun e => hx (e ▸ hk)
        simp [hx, Memory.find, this]
    · rw [List.filter_cons_of_pos (by simp; omega)]
      by_cases hkx : k = x
      · subst hkx; simp [Memory.find, hk]
      · rw [Memory.find, Memory.find, if_neg hkx, if_neg hkx, ih]

theorem Memory.forget_wf {m : Memory} (h : m.wf) (base n : Nat) : (m.forget base n).wf :=
  List.Pairwise.filter _ h

theorem Memory.mem_forget {m : Memory} {base n : Nat} {y : Host.Cell} (h : y ∈ m.forget base n) : y ∈ m :=
  (List.mem_filter.mp h).1

/-! ### The canonical form -/

/-- An address below every listed one has no byte. -/
theorem Memory.find_eq_none {m : Memory} {x : Nat} (h : ∀ y ∈ m, x < y.1) : m.find x = none := by
  induction m with
  | nil => rfl
  | cons c m ih =>
    obtain ⟨k, b⟩ := c
    have hk : x < k := h (k, b) (List.mem_cons_self ..)
    have : ¬ k = x := by omega
    simpa [Memory.find, this] using ih fun y hy => h y (List.mem_cons_of_mem _ hy)

/-- Memories in canonical form that specify the same bytes are equal. -/
theorem Memory.eq_of_find {m m' : Memory} (h : m.wf) (h' : m'.wf) (e : ∀ x, m.find x = m'.find x) : m = m' := by
  induction m generalizing m' with
  | nil =>
    cases m' with
    | nil => rfl
    | cons c m' => have := e c.1; simp [Memory.find] at this
  | cons c m ih =>
    obtain ⟨k, b⟩ := c
    obtain ⟨hk, hm⟩ := List.pairwise_cons.mp h
    cases m' with
    | nil => have := e k; simp [Memory.find] at this
    | cons c' m' =>
      obtain ⟨k', b'⟩ := c'
      obtain ⟨hk', hm'⟩ := List.pairwise_cons.mp h'
      have hkk : k = k' := by
        rcases lt_trichotomy k k' with hlt | heq | hgt
        · have hn : Memory.find ((k', b') :: m') k = none := Memory.find_eq_none fun y hy => by
            rcases List.mem_cons.mp hy with rfl | hy
            · exact hlt
            · exact lt_trans hlt (hk' y hy)
          have := e k; rw [hn] at this; simp [Memory.find] at this
        · exact heq
        · have hn : Memory.find ((k, b) :: m) k' = none := Memory.find_eq_none fun y hy => by
            rcases List.mem_cons.mp hy with rfl | hy
            · exact hgt
            · exact lt_trans hgt (hk y hy)
          have := e k'; rw [hn] at this; simp [Memory.find] at this
      subst hkk
      have hb : b = b' := by have := e k; simpa [Memory.find] using this
      subst hb
      congr 1
      refine ih hm hm' fun x => ?_
      by_cases hx : k = x
      · subst hx
        rw [Memory.find_eq_none hk, Memory.find_eq_none hk']
      · have := e x; simpa [Memory.find, hx] using this

/-! ### Reads of the state -/

/-- Which byte a state reads after a run of bytes is written. -/
theorem State.readByte_writeBytes (s : State) (a x : Nat) (bs : List Byte) :
    (s.writeBytes a bs).readByte x =
      if a ≤ x ∧ x < a + bs.length then bs.getD (x - a) 0 else s.readByte x := by
  unfold State.readByte
  rw [State.writeBytes_mem, State.writeBytes_drawn, Memory.find_writeBytes]
  split_ifs <;> rfl

/-- Which byte a state reads after a result was delivered. -/
theorem State.readByte_complete (s : State) (b : BulkResult) (x : Nat) :
    (s.complete b).readByte x =
      if s.pb.toNat ≤ x ∧ x < s.pb.toNat + b.out.length then b.out.getD (x - s.pb.toNat) 0 else s.readByte x := by
  unfold State.readByte
  rw [State.complete_mem, State.complete_drawn, Memory.find_writeBytes]
  split_ifs <;> rfl

/-- A lost output region changes no byte outside it. -/
theorem State.readByte_loseOutput (s : State) (x : Nat)
    (h : ¬ (s.pb.toNat ≤ x ∧ x < s.pb.toNat + s.cap.toNat)) : s.loseOutput.readByte x = s.readByte x := by
  unfold State.loseOutput
  split_ifs
  · rfl
  · simp [State.readByte, Memory.find_forget, drawIndex, h]

@[simp] theorem State.readByte_raise (s : State) (e : Raised) (x : Nat) : (s.raise e).readByte x = s.readByte x := rfl

@[simp] theorem State.length_readBytes (s : State) (a n : Nat) : (s.readBytes a n).length = n := by
  induction n generalizing a with
  | zero => rfl
  | succ n ih => simp [State.readBytes, ih]

/-- Byte `i` of a read. -/
theorem State.getElem?_readBytes (s : State) (a n i : Nat) (h : i < n) :
    (s.readBytes a n)[i]? = some (s.readByte (a + i)) := by
  induction n generalizing a i with
  | zero => omega
  | succ n ih =>
    cases i with
    | zero => simp [State.readBytes]
    | succ i =>
      rw [State.readBytes, List.getElem?_cons_succ, ih (a + 1) i (by omega)]
      congr 2; omega

/-! ### Byte order -/

@[simp] theorem length_leBytes (n v : Nat) : (leBytes n v).length = n := by
  induction n generalizing v with
  | zero => rfl
  | succ n ih => simp [leBytes, ih]

/-- `LE` undoes `LEbytes` on values of `n` bytes. -/
theorem leValue_leBytes (n v : Nat) : leValue (leBytes n v) = v % 256 ^ n := by
  induction n generalizing v with
  | zero => simp [leBytes, leValue, Nat.mod_one]
  | succ n ih =>
    rw [leBytes, leValue, ih, pow_succ, mul_comm (256 ^ n) 256, Nat.mod_mul]
    simp

theorem leValue_lt (bs : List Byte) : leValue bs < 256 ^ bs.length := by
  induction bs with
  | nil => simp [leValue]
  | cons b bs ih =>
    have hb : b.toNat < 256 := b.isLt
    rw [leValue, List.length_cons, pow_succ]
    omega

/-- `LEbytes` undoes `LE`. -/
theorem leBytes_leValue (bs : List Byte) : leBytes bs.length (leValue bs) = bs := by
  induction bs with
  | nil => rfl
  | cons b bs ih =>
    have hb : b.toNat < 256 := b.isLt
    have hd : (b.toNat + 256 * leValue bs) / 256 = leValue bs := by omega
    rw [leValue, List.length_cons, leBytes, hd, ih]
    congr 1
    apply BitVec.eq_of_toNat_eq
    simp; omega

@[simp] theorem length_serialize (ew : Nat) (xs : List Nat) : (serialize ew xs).length = xs.length * ew := by
  induction xs with
  | nil => simp [serialize]
  | cons x xs ih =>
    rw [serialize] at ih ⊢
    rw [List.flatMap_cons, List.length_append, ih, length_leBytes, List.length_cons]
    ring

@[simp] theorem length_elements (ew n : Nat) (bs : List Byte) : (elements ew n bs).length = n := by
  induction n generalizing bs with
  | zero => rfl
  | succ n ih => simp [elements, ih]

/-- The elements of a serialisation, each cut to its width. -/
theorem elements_serialize (ew : Nat) (xs : List Nat) (rest : List Byte) :
    elements ew xs.length (serialize ew xs ++ rest) = xs.map (· % 256 ^ ew) := by
  induction xs with
  | nil => rfl
  | cons x xs ih =>
    have h : serialize ew (x :: xs) = leBytes ew x ++ serialize ew xs := rfl
    rw [h, List.append_assoc, List.length_cons, elements, List.map_cons]
    rw [List.take_left' (length_leBytes ew x), List.drop_left' (length_leBytes ew x), leValue_leBytes, ih]

end Sys2Proof.Machine
end

