-- ==== Sys2Proof/Laws/Ops.lean ====
section
/-! SUPPORT. What each shared operation can do, said once: the checks, raising a fault, the end of a bulk and of a reorder
command, and the acceptance of a command. Proofs cite these and do not unfold the operations. -/

namespace Sys2Proof.Machine

/-! ### Checks -/

@[simp] theorem check_ok {bad : Bool} {e : Raised} : check bad e = .ok () ↔ bad = false := by
  cases bad <;> simp [check]

@[simp] theorem check_error {bad : Bool} {e e' : Raised} : check bad e = .error e' ↔ bad = true ∧ e' = e := by
  cases bad <;> simp [check, eq_comm]

/-- A check followed by the rest of a rule. -/
theorem check_bind {α : Type} (bad : Bool) (e : Raised) (k : Unit → Except Raised α) :
    (check bad e >>= k) = if bad then .error e else k () := by
  cases bad <;> rfl

theorem State.checkEw_ok {s : State} : s.checkEw = .ok () ↔ s.EwLegal := by
  have h (n : Nat) (hn : n < 2 ^ 64) : s.ew = BitVec.ofNat 64 n ↔ s.ew.toNat = n := by
    rw [← BitVec.toNat_inj, BitVec.toNat_ofNat, Nat.mod_eq_of_lt hn]
  have h1 := h 1 (by decide)
  have h2 := h 2 (by decide)
  have h4 := h 4 (by decide)
  simp only [State.checkEw, check_ok, Bool.not_eq_false', Bool.or_eq_true, beq_iff_eq, State.EwLegal, or_assoc]
  rw [← h1, ← h2, ← h4]
  exact Iff.rfl

theorem State.checkLen_ok {s : State} : s.checkLen = .ok () ↔ s.len.toNat ≤ s.cfg.maxElems := by
  simp [State.checkLen]

theorem State.checkIn_ok {s : State} {n : Nat} : s.checkIn n = .ok () ↔ s.pa.toNat + n ≤ s.cfg.memSz := by
  simp [State.checkIn]

theorem State.checkOut_ok {s : State} : s.checkOut = .ok () ↔ s.OutputReady := by
  simp [State.checkOut, State.OutputReady]

/-- Two byte ranges share no byte, in the form of the check and as a statement about bytes. -/
theorem State.disjoint_iff {s : State} {n : Nat} :
    s.Disjoint n ↔
      ¬ (0 < n ∧ 0 < s.cap.toNat ∧ s.pa.toNat < s.pb.toNat + s.cap.toNat ∧ s.pb.toNat < s.pa.toNat + n) := by
  constructor
  · rintro h ⟨h1, h2, h3, h4⟩
    exact h (max s.pa.toNat s.pb.toNat) (by omega)
  · intro h a ha
    exact h (by omega)

theorem State.checkOverlap_ok {s : State} {n : Nat} : s.checkOverlap n = .ok () ↔ s.Disjoint n := by
  rw [State.disjoint_iff, State.checkOverlap, check_ok]
  simp only [← Bool.not_eq_true, Bool.and_eq_true, decide_eq_true_eq, and_assoc]

theorem bind_unit_ok {α : Type} {x : Except Raised Unit} {k : Unit → Except Raised α} {v : α} :
    (x >>= k) = .ok v ↔ x = .ok () ∧ k () = .ok v := by
  cases x with
  | error e => simp [bind, Except.bind]
  | ok u => cases u; simp [bind, Except.bind]

theorem State.byteChecks_ok {s : State} {n : Nat} : s.byteChecks n = .ok () ↔ s.ByteReady n := by
  simp only [State.byteChecks, bind_unit_ok, State.checkLen_ok, State.checkIn_ok, State.checkOut_ok,
    State.checkOverlap_ok, State.ByteReady, State.InputReady, and_assoc]

theorem State.typedChecks_ok {s : State} {n : Nat} : s.typedChecks n = .ok () ↔ s.TypedReady n := by
  have h : s.typedChecks n = (s.checkEw >>= fun _ => s.byteChecks n) := rfl
  rw [h, bind_unit_ok, State.checkEw_ok, State.byteChecks_ok, State.TypedReady]

/-- What step 1 raises. -/
theorem State.checkEw_error {s : State} (h : ¬ s.EwLegal) : s.checkEw = .error ⟨.eEw, s.ew.toNat⟩ := by
  rw [← State.checkEw_ok] at h
  unfold State.checkEw at h ⊢
  rw [check_ok] at h
  rw [check_error]
  exact ⟨Bool.eq_true_of_not_eq_false h, rfl⟩

/-- What step 2 raises. -/
theorem State.checkLen_error {s : State} (h : s.cfg.maxElems < s.len.toNat) :
    s.checkLen = .error ⟨.eResource, s.len.toNat⟩ := by
  unfold State.checkLen
  rw [check_error]
  exact ⟨decide_eq_true h, rfl⟩

/-- What step 3 raises. -/
theorem State.checkIn_error {s : State} {n : Nat} (h : s.cfg.memSz < s.pa.toNat + n) :
    s.checkIn n = .error ⟨.eMemRange, s.pa.toNat⟩ := by
  unfold State.checkIn
  rw [check_error]
  exact ⟨decide_eq_true h, rfl⟩

/-- What step 4 raises. -/
theorem State.checkOut_error {s : State} (h : ¬ s.OutputReady) : s.checkOut = .error ⟨.eMemRange, s.pb.toNat⟩ := by
  unfold State.checkOut
  rw [check_error]
  exact ⟨decide_eq_true (Nat.lt_of_not_le h), rfl⟩

/-- What step 5 raises. -/
theorem State.checkOverlap_error {s : State} {n : Nat} (h : ¬ s.Disjoint n) :
    s.checkOverlap n = .error ⟨.eMemOverlap, s.pb.toNat⟩ := by
  rw [← State.checkOverlap_ok] at h
  unfold State.checkOverlap at h ⊢
  rw [check_ok] at h
  rw [check_error]
  exact ⟨Bool.eq_true_of_not_eq_false h, rfl⟩

/-- The checks of a command that uses `EW` are step 1 and those of one that does not. -/
theorem State.typedChecks_eq (s : State) (n : Nat) :
    s.typedChecks n = if s.checkEw = .ok () then s.byteChecks n else .error ⟨.eEw, s.ew.toNat⟩ := by
  have h : s.typedChecks n = (s.checkEw >>= fun _ => s.byteChecks n) := rfl
  by_cases he : s.EwLegal
  · rw [h, State.checkEw_ok.mpr he]; rfl
  · have hn : s.checkEw ≠ .ok () := fun hc => he (State.checkEw_ok.mp hc)
    rw [if_neg hn, h, State.checkEw_error he]; rfl

/-- Which fault the four checks of a byte command raise. -/
theorem State.byteChecks_error {s : State} {n : Nat} {e : Raised} (h : s.byteChecks n = .error e) :
    (s.cfg.maxElems < s.len.toNat ∧ e = ⟨.eResource, s.len.toNat⟩) ∨
    (s.len.toNat ≤ s.cfg.maxElems ∧ s.cfg.memSz < s.pa.toNat + n ∧ e = ⟨.eMemRange, s.pa.toNat⟩) ∨
    (s.InputReady n ∧ ¬ s.OutputReady ∧ e = ⟨.eMemRange, s.pb.toNat⟩) ∨
    (s.InputReady n ∧ s.OutputReady ∧ ¬ s.Disjoint n ∧ e = ⟨.eMemOverlap, s.pb.toNat⟩) := by
  unfold State.byteChecks at h
  by_cases h2 : s.len.toNat ≤ s.cfg.maxElems
  · rw [State.checkLen_ok.mpr h2] at h
    by_cases h3 : s.pa.toNat + n ≤ s.cfg.memSz
    · rw [State.checkIn_ok.mpr h3] at h
      by_cases h4 : s.OutputReady
      · rw [State.checkOut_ok.mpr h4] at h
        by_cases h5 : s.Disjoint n
        · rw [State.checkOverlap_ok.mpr h5] at h; cases h
        · rw [State.checkOverlap_error h5] at h
          exact .inr (.inr (.inr ⟨⟨h2, h3⟩, h4, h5, (Except.error.inj h).symm⟩))
      · rw [State.checkOut_error h4] at h
        exact .inr (.inr (.inl ⟨⟨h2, h3⟩, h4, (Except.error.inj h).symm⟩))
    · have h3' := Nat.lt_of_not_le h3
      rw [State.checkIn_error h3'] at h
      exact .inr (.inl ⟨h2, h3', (Except.error.inj h).symm⟩)
  · have h2' := Nat.lt_of_not_le h2
    rw [State.checkLen_error h2'] at h
    exact .inl ⟨h2', (Except.error.inj h).symm⟩

/-- A slot that is checked is valid and is the slot register. -/
theorem State.checkSlot_ok {s : State} {k : SlotId} {v : CurveSlot} :
    s.checkSlot k = .ok v ↔ (s.slot k).valid = true ∧ v = s.slot k := by
  unfold State.checkSlot
  split_ifs with h <;> simp [h, eq_comm]

theorem State.checkSlot_error {s : State} {k : SlotId} {e : Raised} :
    s.checkSlot k = .error e ↔ (s.slot k).valid = false ∧ e = ⟨.eNotConstructed, slotNumber k⟩ := by
  unfold State.checkSlot
  split_ifs with h <;> simp [h, eq_comm]

theorem State.checkInterleaver_ok {s : State} {dim : BitVec 8} {k : Icfg} :
    s.checkInterleaver dim = .ok k ↔ s.icfg.valid = true ∧ dim.toNat < s.icfg.n.toNat ∧ k = s.icfg := by
  unfold State.checkInterleaver
  rw [bind_unit_ok, bind_unit_ok, check_ok, check_ok]
  simp only [Bool.not_eq_false', decide_eq_false_iff_not, Nat.not_le]
  exact and_congr_right fun _ => and_congr_right fun _ => ⟨fun h => (Except.ok.inj h).symm, fun h => h ▸ rfl⟩

/-! ### Faults -/

/-- The fault a `trap` records, and that it changes nothing else. -/
theorem State.trapped (s : State) (e : Raised) : Trapped s (s.raise e) e :=
  ⟨rfl, rfl, rfl, rfl, rfl, rfl, rfl⟩

theorem State.sameBesidesFault_loseOutput (s : State) (e : Raised) : SameBesidesFault s (s.loseOutput.raise e) := by
  unfold State.loseOutput; split_ifs <;> rfl

/-- The fault a bulk command records once its checks have passed, and that it changes nothing but its output region. -/
theorem State.trappedLosingOutput (s : State) (e : Raised) : TrappedLosingOutput s (s.loseOutput.raise e) e :=
  ⟨rfl, rfl, rfl, rfl, fun a ha => by rw [State.readByte_raise]; exact State.readByte_loseOutput s a ha,
    s.sameBesidesFault_loseOutput e⟩

/-! ### The end of a command -/

theorem updateWord_eq (old : Word) (v : Option Nat) : updateWord old v = (v.map (BitVec.ofNat 64)).getD old := by
  cases v <;> rfl

/-- A completed bulk command has delivered its result. -/
theorem State.delivered (s : State) (b : BulkResult) : Delivered s (s.complete b) b := by
  refine ⟨s.readByte_complete b, rfl, ?_, ?_, ?_, ?_, ?_, rfl⟩
  all_goals exact updateWord_eq _ _

/-- The three ends of a bulk command: a common check failed, the computation or the capacity failed, or it completed. -/
theorem State.finishBulk_cases {s : State} {checks : Except Raised Unit} {result : Unit → Except Raised BulkResult}
    {o : Host.Outcome State Fault Refusal} (h : s.finishBulk checks result = o) :
    (∃ e, checks = .error e ∧ o = .next (s.raise e)) ∨
    (checks = .ok () ∧ ∃ e, (result () = .error e ∨
        ∃ b, result () = .ok b ∧ s.cap.toNat < b.out.length ∧ e = ⟨.eCap, b.out.length⟩) ∧
      o = .next (s.loseOutput.raise e)) ∨
    (checks = .ok () ∧ ∃ b, result () = .ok b ∧ b.out.length ≤ s.cap.toNat ∧ o = .next (s.complete b)) := by
  subst h
  unfold State.finishBulk
  rcases checks with e | u
  · exact .inl ⟨e, rfl, rfl⟩
  · refine .inr ?_
    cases hr : result () with
    | error e => exact .inl ⟨rfl, e, .inl rfl, rfl⟩
    | ok b =>
      by_cases hc : s.cap.toNat < b.out.length
      · exact .inl ⟨rfl, _, .inr ⟨b, rfl, hc, rfl⟩, by simp [hc, State.trap]⟩
      · exact .inr ⟨rfl, b, rfl, by omega, by simp [hc]⟩

/-- A bulk command whose checks pass and whose result fits delivers it. -/
theorem State.finishBulk_ok {s : State} {checks : Except Raised Unit} {result : Unit → Except Raised BulkResult}
    {b : BulkResult} (hc : checks = .ok ()) (hr : result () = .ok b) (hb : b.out.length ≤ s.cap.toNat) :
    s.finishBulk checks result = .next (s.complete b) := by
  simp [State.finishBulk, hc, hr, Nat.not_lt.mpr hb]

/-- A bulk command whose checks pass and whose result does not fit raises `E_CAP`. -/
theorem State.finishBulk_cap {s : State} {checks : Except Raised Unit} {result : Unit → Except Raised BulkResult}
    {b : BulkResult} (hc : checks = .ok ()) (hr : result () = .ok b) (hb : s.cap.toNat < b.out.length) :
    s.finishBulk checks result = .next (s.loseOutput.raise ⟨.eCap, b.out.length⟩) := by
  simp [State.finishBulk, hc, hr, hb, State.trap]

/-- A bulk command whose computation faults. -/
theorem State.finishBulk_error {s : State} {checks : Except Raised Unit} {result : Unit → Except Raised BulkResult}
    {e : Raised} (hc : checks = .ok ()) (hr : result () = .error e) :
    s.finishBulk checks result = .next (s.loseOutput.raise e) := by
  simp [State.finishBulk, hc, hr, State.trap]

/-- A bulk command whose common checks fail. -/
theorem State.finishBulk_check {s : State} {checks : Except Raised Unit} {result : Unit → Except Raised BulkResult}
    {e : Raised} (hc : checks = .error e) : s.finishBulk checks result = .next (s.raise e) := by
  simp [State.finishBulk, hc, State.trap]

/-- The two ends of a reorder command. -/
theorem State.finishReorder_cases {s : State} {result : Except Raised (List Nat)}
    {o : Host.Outcome State Fault Refusal} (h : s.finishReorder result = o) :
    (∃ e, result = .error e ∧ o = .next (s.raise e)) ∨
    (∃ xs, result = .ok xs ∧ o = .next { s.writeBytes s.pa.toNat (serialize s.ew.toNat xs) with olen := 0 }) := by
  subst h
  rcases result with e | xs
  · exact .inl ⟨e, rfl, rfl⟩
  · exact .inr ⟨xs, rfl, rfl⟩

/-! ### Acceptance and the host's operations -/

/-- A command that is accepted and ends. -/
theorem accept_next {i : Instr} {s t : State} (h : exec i { s with busy := true } = .next t) :
    accept i s = .next { t with busy := false } := by
  simp [accept, h]

/-- Every way a command word can be treated. -/
theorem issue_cases (w : CmdWord) (s : State) :
    (s.err = true ∧ w = 0x00000001#32 ∧ issue w s = accept .clrerr s) ∨
    (s.err = true ∧ w ≠ 0x00000001#32 ∧ issue w s = .next s) ∨
    (s.err = false ∧ (∃ e, decode w = .error e) ∧ issue w s = .next (s.raise ⟨.eCmd, w.toNat⟩)) ∨
    (s.err = false ∧ ∃ i, decode w = .ok i ∧ issue w s = accept i s) := by
  cases he : s.err with
  | true =>
    by_cases hw : w = 0x00000001#32
    · exact .inl ⟨rfl, hw, by simp [issue, he, hw]⟩
    · exact .inr (.inl ⟨rfl, hw, by simp [issue, he, hw]⟩)
  | false =>
    cases hd : decode w with
    | error e => exact .inr (.inr (.inl ⟨rfl, ⟨e, rfl⟩, by simp [issue, he, hd, State.trap]⟩))
    | ok i => exact .inr (.inr (.inr ⟨rfl, i, rfl, by simp [issue, he, hd]⟩))

/-- Every way a step can go. -/
theorem step_cases (s : State) :
    (s.host = [] ∧ step s = .next s) ∨
    (∃ op rest, s.host = op :: rest ∧ s.busy = true ∧ step s = hostOpBusy op { s with host := rest }) ∨
    (∃ op rest, s.host = op :: rest ∧ s.busy = false ∧ step s = hostOp op { s with host := rest }) := by
  cases hh : s.host with
  | nil => exact .inl ⟨rfl, by simp [step, hostStep, hh]⟩
  | cons op rest =>
    cases hb : s.busy with
    | true => exact .inr (.inl ⟨op, rest, rfl, rfl, by simp [step, hostStep, hh, hb]⟩)
    | false => exact .inr (.inr ⟨op, rest, rfl, rfl, by simp [step, hostStep, hh, hb]⟩)

end Sys2Proof.Machine
end

