-- ==== Sys2Proof/Laws/PerInstr.lean ====
section
/-! SUPPORT. The family of per-command lemmas: the encoding of every command has its opcode of the table in bits 7:0 and
zeros in bits 31:28 (30_encoding.md R91, R93). -/

namespace Sys2Proof.Laws.EncodeOpcode

/-- The opcode of a command (R93). -/
def opcode : Instr → BitVec 8
  | .nop => 0x00
  | .clrerr => 0x01
  | .csetup _ _ _ _ => 0x10
  | .cclone _ _ => 0x11
  | .isetup _ _ => 0x12
  | .expand _ _ _ => 0x20
  | .remove _ _ _ => 0x21
  | .c2d _ _ => 0x22
  | .d2c _ _ => 0x23
  | .reordi _ _ => 0x30
  | .reordt _ _ => 0x31
  | .bwtf => 0x40
  | .bwti => 0x41
  | .mtfe => 0x42
  | .mtfd => 0x43
  | .hufe => 0x50
  | .hufd => 0x51
  | .lzwe => 0x52
  | .lzwd => 0x53
  | .rlee => 0x54
  | .rled => 0x55
  | .hdrp => 0x60
  | .hdru => 0x61
  | .blkc _ _ _ => 0x62
  | .blkd _ _ _ => 0x63

/-- Bits 7:0 of the word of a command are its opcode, and bits 31:28 are 0. -/
def Statement (i : Instr) : Prop := fieldOpc (encode i) = opcode i ∧ fieldTop (encode i) = 0

theorem nop : Statement .nop := ⟨fieldOpc_pack .., fieldTop_pack ..⟩

theorem clrerr : Statement .clrerr := ⟨fieldOpc_pack .., fieldTop_pack ..⟩

theorem csetup (slot : SlotId) (type : BitVec 3) (rs1 rs2 : RegIx) : Statement (.csetup slot type rs1 rs2) := ⟨fieldOpc_pack .., fieldTop_pack ..⟩

theorem cclone (dst src : SlotId) : Statement (.cclone dst src) := ⟨fieldOpc_pack .., fieldTop_pack ..⟩

theorem isetup (rs1 rs2 : RegIx) : Statement (.isetup rs1 rs2) := ⟨fieldOpc_pack .., fieldTop_pack ..⟩

theorem expand (rd rs1 : RegIx) (dim : BitVec 8) : Statement (.expand rd rs1 dim) := ⟨fieldOpc_pack .., fieldTop_pack ..⟩

theorem remove (rd rs1 : RegIx) (dim : BitVec 8) : Statement (.remove rd rs1 dim) := ⟨fieldOpc_pack .., fieldTop_pack ..⟩

theorem c2d (rd : RegIx) (slot : SlotId) : Statement (.c2d rd slot) := ⟨fieldOpc_pack .., fieldTop_pack ..⟩

theorem d2c (rs1 : RegIx) (slot : SlotId) : Statement (.d2c rs1 slot) := ⟨fieldOpc_pack .., fieldTop_pack ..⟩

theorem reordi (src dst : SlotId) : Statement (.reordi src dst) := ⟨fieldOpc_pack .., fieldTop_pack ..⟩

theorem reordt (src dst : SlotId) : Statement (.reordt src dst) := ⟨fieldOpc_pack .., fieldTop_pack ..⟩

theorem bwtf : Statement .bwtf := ⟨fieldOpc_pack .., fieldTop_pack ..⟩

theorem bwti : Statement .bwti := ⟨fieldOpc_pack .., fieldTop_pack ..⟩

theorem mtfe : Statement .mtfe := ⟨fieldOpc_pack .., fieldTop_pack ..⟩

theorem mtfd : Statement .mtfd := ⟨fieldOpc_pack .., fieldTop_pack ..⟩

theorem hufe : Statement .hufe := ⟨fieldOpc_pack .., fieldTop_pack ..⟩

theorem hufd : Statement .hufd := ⟨fieldOpc_pack .., fieldTop_pack ..⟩

theorem lzwe : Statement .lzwe := ⟨fieldOpc_pack .., fieldTop_pack ..⟩

theorem lzwd : Statement .lzwd := ⟨fieldOpc_pack .., fieldTop_pack ..⟩

theorem rlee : Statement .rlee := ⟨fieldOpc_pack .., fieldTop_pack ..⟩

theorem rled : Statement .rled := ⟨fieldOpc_pack .., fieldTop_pack ..⟩

theorem hdrp : Statement .hdrp := ⟨fieldOpc_pack .., fieldTop_pack ..⟩

theorem hdru : Statement .hdru := ⟨fieldOpc_pack .., fieldTop_pack ..⟩

theorem blkc (bwt mtf : Bool) (codec : BitVec 3) : Statement (.blkc bwt mtf codec) := ⟨fieldOpc_pack .., fieldTop_pack ..⟩

theorem blkd (bwt mtf : Bool) (codec : BitVec 3) : Statement (.blkd bwt mtf codec) := ⟨fieldOpc_pack .., fieldTop_pack ..⟩

end Sys2Proof.Laws.EncodeOpcode
end

