-- ==== Sys2Proof/Tests/Slice0.lean ====
section
/-! SUPPORT. Tests of the model on small states, their expected results taken from the examples of spec/ (named in each
docstring), and for every statement with hypotheses a witness that meets them. -/

namespace Sys2Proof.Tests
open Sys2Proof Sys2Proof.Machine

set_option Elab.async false

/-! ### Helpers -/

/-- What `f` gives on the next state, none if there is none. -/
def after {α : Type} (o : Host.Outcome State Fault Refusal) (f : State → α) : Option α :=
  match o with
  | .next t => some (f t)
  | .fault _ => none
  | .refused _ => none

/-- A next state that passes a Boolean test. -/
theorem next_of_after {o : Host.Outcome State Fault Refusal} {f : State → Bool} (h : after o f = some true) :
    ∃ t, o = .next t ∧ f t = true := by
  cases o with
  | next t => exact ⟨t, rfl, Option.some.inj h⟩
  | fault e => cases h
  | refused r => cases h

/-- The bytes at `PB` that a bulk command wrote, `OLEN` of them. -/
def output (t : State) : List Byte := t.readBytes t.pb.toNat t.olen.toNat

/-- The fault recorded, if any: its code and information. -/
def faultOf (t : State) : Option (Nat × Nat) := if t.err then some (t.errcode.toNat, t.errinfo.toNat) else none

/-- `r1` and `r2` hold values. -/
def withRegs (a b : Word) : State := (State.reset.setReg 1 a).setReg 2 b

/-- A bulk command's registers and its input bytes at address 0; the output region starts at 512. -/
def bulk (ew len cap : Nat) (bytes : List Byte) : State :=
  { State.reset with
    ew := BitVec.ofNat 64 ew
    len := BitVec.ofNat 64 len
    pb := 512
    cap := BitVec.ofNat 64 cap
    mem := Memory.writeBytes [] 0 bytes }

/-- A constructed slot. -/
def slotOf (type : CurveType) (n : BitVec 8) (l : BitVec 40) : CurveSlot :=
  { valid := true, type := type, n := n, l := l }

/-- Both slots constructed. -/
def withSlots (s : State) (a b : CurveSlot) : State := { s with curve0 := a, curve1 := b }

/-- `ICFG` constructed. -/
def withIcfg (s : State) (n b : BitVec 8) : State := { s with icfg := { valid := true, n := n, b := b } }

/-- "BANANA". -/
def banana : List Byte := [0x42, 0x41, 0x4E, 0x41, 0x4E, 0x41]

/-! ### Ill-formed commands are refused (30_encoding.md R95) -/

theorem test_illformed_blkc : ∀ c ∈ [3, 4, 6, 7], (Instr.blkc true false c).wellFormed = false := by decide
theorem test_illformed_blkd : ∀ c ∈ [3, 4, 6, 7], (Instr.blkd false true c).wellFormed = false := by decide
theorem test_wellformed_blkc : ∀ c ∈ [0, 1, 2, 5], (Instr.blkc true false c).wellFormed = true := by decide

/-! ### Decoding of words written out from the tables of 30_encoding.md R91, R93 -/

theorem test_decode_nop : decode 0x00000000 = .ok .nop := by decide
theorem test_decode_clrerr : decode 0x00000001 = .ok .clrerr := by decide
/-- R113: `CSETUP s1, HILBERT, r4, r5`. -/
theorem test_decode_csetup : decode 0x00954010 = .ok (.csetup .s1 4 4 5) := by decide
/-- `CCLONE s1, s0`: `imm8` = 1. -/
theorem test_decode_cclone : decode 0x00100011 = .ok (.cclone .s1 .s0) := by decide
/-- `ISETUP r1, r2`. -/
theorem test_decode_isetup : decode 0x00021012 = .ok (.isetup 1 2) := by decide
/-- R113: `EXPAND r3, r1, 1`. -/
theorem test_decode_expand : decode 0x00101320 = .ok (.expand 3 1 1) := by decide
/-- `REMOVE r6, r5, 255`. -/
theorem test_decode_remove : decode 0x0FF05621 = .ok (.remove 6 5 255) := by decide
/-- `C2D r2, s1`. -/
theorem test_decode_c2d : decode 0x00100222 = .ok (.c2d 2 .s1) := by decide
/-- `D2C r3, s0`. -/
theorem test_decode_d2c : decode 0x00003023 = .ok (.d2c 3 .s0) := by decide
/-- `REORDI s0, s1`: `imm8` = 2. -/
theorem test_decode_reordi : decode 0x00200030 = .ok (.reordi .s0 .s1) := by decide
/-- `REORDT s1, s0`: `imm8` = 1. -/
theorem test_decode_reordt : decode 0x00100031 = .ok (.reordt .s1 .s0) := by decide
theorem test_decode_bwtf : decode 0x00000040 = .ok .bwtf := by decide
theorem test_decode_bwti : decode 0x00000041 = .ok .bwti := by decide
theorem test_decode_mtfe : decode 0x00000042 = .ok .mtfe := by decide
theorem test_decode_mtfd : decode 0x00000043 = .ok .mtfd := by decide
theorem test_decode_hufe : decode 0x00000050 = .ok .hufe := by decide
theorem test_decode_hufd : decode 0x00000051 = .ok .hufd := by decide
theorem test_decode_lzwe : decode 0x00000052 = .ok .lzwe := by decide
theorem test_decode_lzwd : decode 0x00000053 = .ok .lzwd := by decide
theorem test_decode_rlee : decode 0x00000054 = .ok .rlee := by decide
theorem test_decode_rled : decode 0x00000055 = .ok .rled := by decide
theorem test_decode_hdrp : decode 0x00000060 = .ok .hdrp := by decide
theorem test_decode_hdru : decode 0x00000061 = .ok .hdru := by decide
/-- R113: `BLKC BWT MTF LZW`. -/
theorem test_decode_blkc : decode 0x01700062 = .ok (.blkc true true 5) := by decide
/-- `BLKD MTF RLE`: `imm8` = 2 + (1 << 2). -/
theorem test_decode_blkd : decode 0x00600063 = .ok (.blkd false true 1) := by decide
/-- One illegal word for each ground of R96. -/
theorem test_decode_illegal :
    decode 0x00000002 = .error .unknownOpcode ∧ decode 0x10000000 = .error .reservedTop
      ∧ decode 0x00000100 = .error .unusedField ∧ decode 0x00400011 = .error .reservedImm
      ∧ decode 0x00C00062 = .error .reservedCodec := by decide
/-- The numbering of spec/opcode_table.json: the whole word, bit 0 first. -/
theorem test_decodeTableWord : decodeTableWord 32 0x00101320 = some (.expand 3 1 1) := by decide

/-! ### One step on a small state for each command -/

/-- A command placed for the step is the first to run after reset. -/
theorem test_step_first_command :
    after (step (State.reset.withFetchWord 32 0x00000050)) faultOf = some (some (17, 36)) := by decide +kernel
theorem test_nop : after (step (State.reset.withFetchWord 32 0)) (fun t => (faultOf t, t.host)) = some (none, []) := by
  decide +kernel
/-- R124. -/
theorem test_clrerr : after (exec .clrerr { State.reset with err := true, errcode := 9, errinfo := 5 })
    (fun t => (t.err, t.errcode, t.errinfo)) = some (false, 0, 0) := by decide +kernel
/-- R141: `HILBERT`, N 2, L 8 in slot 1. -/
theorem test_csetup : after (exec (.csetup .s1 4 1 2) (withRegs 2 8)) (fun t => slotWord t.curve1) =
    some 0x0000000000080209 := by decide +kernel
/-- R146, 90_conflicts.md C3: N 2, L 2^32 passes the interleave width and fails the total. -/
theorem test_csetup_total : after (exec (.csetup .s0 2 1 2) (withRegs 2 0x100000000)) faultOf = some (some (4, 2)) := by
  decide +kernel
/-- R148. -/
theorem test_cclone : after (exec (.cclone .s1 .s0) { State.reset with curve0 := slotOf .morton 2 4 })
    (fun t => slotWord t.curve1) = some 0x0000000000040205 := by decide +kernel
/-- R183. -/
theorem test_isetup : after (exec (.isetup 1 2) (withRegs 2 16)) (fun t => icfgWord t.icfg) =
    some 0x0000000000100201 := by decide +kernel
/-- R183: `N * B` = 66. -/
theorem test_isetup_width : after (exec (.isetup 1 2) (withRegs 3 22)) faultOf = some (some (5, 66)) := by decide +kernel
/-- R185. -/
theorem test_expand : after (exec (.expand 3 1 1) (withIcfg (withRegs 0x1000 0) 2 16)) (fun t => t.reg 3) =
    some 0x02000000 := by decide +kernel
/-- R190, and the source being the destination. -/
theorem test_expand_wide : after (exec (.expand 1 1 1) (withIcfg (withRegs 0xFF 0) 2 3)) (fun t => t.reg 1) =
    some 0x2A := by decide +kernel
/-- R187. -/
theorem test_remove : after (exec (.remove 2 1 1) (withIcfg (withRegs 0b110110 0) 2 3)) (fun t => t.reg 2) =
    some 5 := by decide +kernel
/-- R150: MORTON, N 2, L 4, (3, 1). -/
theorem test_c2d : after (exec (.c2d 2 .s0) ((withSlots State.reset (slotOf .morton 2 4) CurveSlot.empty).setCoords [3, 1]))
    (fun t => t.reg 2) = some 7 := by decide +kernel
/-- R150: the second coordinate is out of range. -/
theorem test_c2d_range :
    after (exec (.c2d 2 .s0) ((withSlots State.reset (slotOf .morton 2 4) CurveSlot.empty).setCoords [3, 4])) faultOf =
      some (some (8, 1)) := by decide +kernel
/-- R158: HILBERT, L 8, distance 52 is (5, 3). -/
theorem test_d2c : after (exec (.d2c 1 .s0) (withSlots (withRegs 52 0) (slotOf .hilbert 2 8) CurveSlot.empty))
    (fun t => t.coordList 2) = some [5, 3] := by decide +kernel
/-- R151: the distance `L^N` is out of range. -/
theorem test_d2c_range : after (exec (.d2c 1 .s0) (withSlots (withRegs 64 0) (slotOf .hilbert 2 8) CurveSlot.empty))
    faultOf = some (some (9, 64)) := by decide +kernel
/-- R159: the Hilbert table for L = 4, row 2. -/
theorem test_hilbert_row : (List.range 4).map (fun x => coordsToDist .hilbert [x, 2] 2 4) = [4, 7, 8, 11] := by
  decide +kernel
/-- R155: the direction of the Gray curve. -/
theorem test_gray : coordsToDist .gray [2, 0] 2 4 = 6 ∧ distToCoords .gray 6 2 4 = [2, 0] := by decide +kernel

/-- The 16 bytes of the example of R203 and its two slots. -/
def reorderState : State :=
  withSlots (bulk 1 16 0 [0, 1, 2, 3, 4, 5, 6, 7, 8, 9, 10, 11, 12, 13, 14, 15]) (slotOf .rowMajor 2 4) (slotOf .morton 2 4)

/-- R203. -/
theorem test_reordi : after (exec (.reordi .s0 .s1) reorderState) (fun t => t.readBytes 0 16) =
    some [0, 1, 4, 5, 2, 3, 6, 7, 8, 9, 12, 13, 10, 11, 14, 15] := by decide +kernel
/-- R206. -/
theorem test_reordt : after (exec (.reordt .s0 .s1) reorderState) (fun t => t.readBytes 0 16) =
    some [0, 1, 4, 5, 2, 3, 6, 7, 8, 9, 12, 13, 10, 11, 14, 15] := by decide +kernel
/-- R226. -/
theorem test_bwtf : after (exec .bwtf (bulk 1 6 6 banana)) (fun t => (output t, t.pidx)) =
    some ([0x42, 0x4E, 0x4E, 0x41, 0x41, 0x41], 3) := by decide +kernel
/-- R229. -/
theorem test_bwti : after (exec .bwti { bulk 1 6 6 [0x42, 0x4E, 0x4E, 0x41, 0x41, 0x41] with pidx := 3 }) output =
    some banana := by decide +kernel
/-- R228. -/
theorem test_bwti_walk : after (exec .bwti { bulk 1 2 2 [0x41, 0x42] with pidx := 1 }) faultOf = some (some (21, 1)) := by
  decide +kernel
/-- R243. -/
theorem test_mtfe : after (exec .mtfe (bulk 1 6 6 banana)) (fun t => (output t, t.vmin, t.vmax)) =
    some ([1, 1, 13, 1, 1, 1], 0x41, 0x4E) := by decide +kernel
/-- R246. -/
theorem test_mtfd : after (exec .mtfd { bulk 1 6 6 [1, 1, 13, 1, 1, 1] with vmin := 0x41, vmax := 0x4E }) output =
    some banana := by decide +kernel
/-- R246: `A` = 13. -/
theorem test_mtfd_rank :
    after (exec .mtfd { bulk 1 6 6 [1, 1, 13, 1, 1, 1] with vmin := 0x41, vmax := 0x4D }) faultOf = some (some (20, 2)) := by
  decide +kernel

/-- The stream of "AB" (R296): the table of two one-bit codes and the payload. -/
def hufAB : List Byte := [0x00, 0x02, 0x00, 0x01] ++ List.replicate 8 0 ++ [0x58] ++ List.replicate 23 0 ++ [0x10]

/-- R296. -/
theorem test_hufe : after (exec .hufe (bulk 1 2 64 [0x41, 0x42])) (fun t => (output t, t.padb)) = some (hufAB, 4) := by
  decide +kernel
/-- R294. -/
theorem test_hufd : after (exec .hufd { bulk 1 37 64 hufAB with padb := 4 }) output = some [0x41, 0x42] := by
  decide +kernel
/-- R320. -/
theorem test_lzwe : after (exec .lzwe (bulk 1 7 64 [0x41, 0x42, 0x41, 0x42, 0x41, 0x42, 0x41]))
    (fun t => (output t, t.padb)) = some ([0x20, 0x90, 0xA0, 0x10, 0x20], 4) := by decide +kernel
/-- R318. -/
theorem test_lzwd : after (exec .lzwd { bulk 1 5 64 [0x20, 0x90, 0xA0, 0x10, 0x20] with padb := 4 }) output =
    some [0x41, 0x42, 0x41, 0x42, 0x41, 0x42, 0x41] := by decide +kernel
/-- R318: code 258 with 256 entries. -/
theorem test_lzwd_code : after (exec .lzwd { bulk 1 4 64 [0x20, 0xC0, 0x80, 0x80] with padb := 5 }) faultOf =
    some (some (25, 258)) := by decide +kernel
/-- R327, two-byte elements. -/
theorem test_rlee : after (exec .rlee (bulk 2 4 64 [0x34, 0x12, 0x34, 0x12, 0x34, 0x12, 0xFF, 0xFF])) output =
    some [0x03, 0x34, 0x12, 0x01, 0xFF, 0xFF] := by decide +kernel
/-- R329: a count of 0 gives nothing. -/
theorem test_rled : after (exec .rled (bulk 1 4 64 [0x00, 0x09, 0x02, 0x04])) output = some [0x04, 0x04] := by
  decide +kernel
/-- R344. -/
theorem test_hdrp : after (exec .hdrp { bulk 1 0 10 [] with hdr := 0x0000030802010402 }) output =
    some [0x53, 0x46, 0x43, 0x43, 0x02, 0x04, 0x01, 0x02, 0x08, 0x03] := by decide +kernel
/-- R346. -/
theorem test_hdru :
    after (exec .hdru (bulk 1 10 0 [0x53, 0x46, 0x43, 0x43, 0x02, 0x04, 0x01, 0x02, 0x08, 0x03]))
      (fun t => (t.hdr, t.used)) = some (0x0000030802010402, 10) := by decide +kernel
/-- R346: the fourth byte of the magic is wrong. -/
theorem test_hdru_magic :
    after (exec .hdru (bulk 1 9 0 [0x53, 0x46, 0x43, 0x58, 0x02, 0x02, 0x01, 0x00, 0x00])) faultOf =
      some (some (29, 0x58434653)) := by decide +kernel

/-- The block of R359. -/
def block16 : List Byte :=
  [0x0C, 0, 0, 0, 0xE8, 0x03, 0xEA, 0x03, 0, 0, 0, 0, 1, 0, 0, 1, 2, 0, 1, 1, 0, 1, 0, 0]

/-- R358, R359: `BLKC BWT MTF RLE` on four two-byte elements. -/
theorem test_blkc : after (exec (.blkc true true 1) (bulk 2 4 64 [0xE8, 3, 0xE8, 3, 0xEA, 3, 0xE8, 3]))
    (fun t => (output t, t.pidx, t.vmin, t.vmax)) = some (block16, 0, 1000, 1002) := by decide +kernel
/-- R360 on the block of R359. -/
theorem test_blkd : after (exec (.blkd true true 1) (bulk 2 30 64 block16)) (fun t => (output t, t.used, t.vmax)) =
    some ([0xE8, 3, 0xE8, 3, 0xEA, 3, 0xE8, 3], 24, 1002) := by decide +kernel
/-- R62: the last byte of the access lies at `MEMSZ`. -/
theorem test_host_mem_edge : (State.reset.hostWriteMem 16777209 .eight 1).mem = []
    ∧ (State.reset.hostWriteMem 16777208 .eight 0x0102).readByte 16777209 = 1 := by decide +kernel

/-! ### Witnesses: a concrete state and operands for the hypotheses of every statement

A witness is named after its statement and, where there are several clauses, after the clause; the values are those at the
edge of the clause's range. -/

theorem witness_DecodeOfEncode : (Instr.blkd true true 5).wellFormed = true := by decide

theorem witness_EncodeOfDecode : decode 0x0FF05621 = .ok (.remove 6 5 255) := by decide

/-- The next host operation is `op`. -/
def withOp (op : HostOp) (s : State) : State := { s with host := [op] }

theorem illegal_ff : ¬ LegalWord 0x000000FF := by unfold LegalWord; decide

theorem witness_IllegalWordFaults :
    (withOp (.issue 0xFF) State.reset).host = [.issue 0xFF] ∧ Issues (.issue 0xFF) 0xFF
      ∧ (withOp (.issue 0xFF) State.reset).busy = false ∧ ¬ LegalWord 0xFF
      ∧ (withOp (.issue 0xFF) State.reset).err = false
      ∧ (withOp (.issue 0xFF) State.reset.clearErr).err = false
      ∧ (withOp (.issue 0xFF) { State.reset with err := true }).err = true :=
  ⟨rfl, .inl rfl, rfl, illegal_ff, rfl, rfl, rfl⟩

theorem witness_StepRunsDecodedCommand :
    ∃ t, (withOp (.writeReg 0x100 0xFFFFFFFF00000050) State.reset).host = [.writeReg 0x100 0xFFFFFFFF00000050]
      ∧ Issues (.writeReg 0x100 0xFFFFFFFF00000050) 0x50 ∧ decode 0x50 = .ok .hufe
      ∧ exec .hufe { withOp (.writeReg 0x100 0xFFFFFFFF00000050) State.reset with host := [], busy := true } = .next t := by
  obtain ⟨t, ht, -⟩ := next_of_after (o := exec .hufe
    { withOp (.writeReg 0x100 0xFFFFFFFF00000050) State.reset with host := [], busy := true }) (f := fun t => t.err)
    (by decide +kernel)
  exact ⟨t, rfl, .inr ⟨_, rfl, by decide⟩, by decide, ht⟩

theorem witness_CommandAcceptance :
    Issues (.issue 1) 1 ∧ ({ State.reset with err := true } : State).err = true
      ∧ (0 : CmdWord) ≠ 0x00000001 ∧ Issues (.writeReg 0x100 0xFFFFFFFF00000000) 0 ∧ ¬ LegalWord 0xFF
      ∧ decode 0 = .ok .nop ∧ (withOp (.issue 1) State.reset).busy = false :=
  ⟨.inl rfl, rfl, by decide, .inr ⟨_, rfl, by decide⟩, illegal_ff, by decide, rfl⟩

theorem witness_CommandsAlwaysEnd : Instr.hufe ≠ .clrerr ∧ State.reset.busy = false := by decide

/-- A state in which everything the invariant speaks of is present: a fault, a configuration, two curves, two bytes and a
lost region. -/
def busyState : State :=
  { withSlots (withIcfg (bulk 1 2 64 [0x41, 0x42]) 2 32) (slotOf .morton 2 4) (slotOf .hilbert 2 8) with
    err := true
    errcode := 17
    errinfo := 36
    drawn := [(512, 64)] }

theorem legal_morton : LegalCurve .morton 2 4 := by
  refine ⟨by decide, by decide, by decide, by decide, by decide, fun _ => ⟨2, rfl⟩, fun _ k hk => ?_, by decide⟩
  have : k = 2 := Nat.pow_right_injective (le_refl 2) (by simpa using hk.symm)
  omega

theorem legal_hilbert : LegalCurve .hilbert 2 8 :=
  ⟨by decide, by decide, by decide, by decide, by decide, fun _ => ⟨3, rfl⟩, fun h => by simp at h, by decide⟩

theorem legal_rowMajor : LegalCurve .rowMajor 64 1 → False := fun h => absurd h.2.2.2.1 (by decide)

theorem legal_rowMajor_wide : LegalCurve .rowMajor 1 (2 ^ 32) :=
  ⟨by decide, by decide, by decide, by decide, by decide, fun h => absurd rfl h, fun h => by simp at h, by decide⟩

theorem legal_gray : LegalCurve .gray 63 2 := by
  refine ⟨by decide, by decide, by decide, by decide, by decide, fun _ => ⟨1, rfl⟩, fun _ k hk => ?_, by decide⟩
  have : k = 1 := Nat.pow_right_injective (le_refl 2) (by simpa using hk.symm)
  omega

theorem busyState_inv : busyState.Inv where
  cfg := by decide
  memWf := by decide +kernel
  memRange := by decide +kernel
  drawnRange := by decide +kernel
  idle := rfl
  noFault := fun h => by cases h
  faultCode := fun _ => ⟨.eCap, rfl⟩
  icfg := fun _ => by unfold LegalInterleave; decide
  curve0 := fun _ => legal_morton
  curve1 := fun _ => legal_hilbert

theorem witness_StepKeepsInvariant :
    (withOp (.issue 1) busyState).Inv ∧ ∃ t, step (withOp (.issue 1) busyState) = .next t := by
  obtain ⟨t, ht, -⟩ := next_of_after (o := step (withOp (.issue 1) busyState)) (f := fun t => !t.err) (by decide +kernel)
  exact ⟨{ busyState_inv with }, t, ht⟩

theorem witness_HostResetEffect : (withOp .reset busyState).host = [.reset] ∧ (withOp .reset busyState).busy = false :=
  ⟨rfl, rfl⟩

theorem witness_HostRegisterAccess :
    (∀ n ∈ ([0x000, 0x00F, 0x040, 0x07F, 0x110, 0x113, 0x116, 0x11B] : List RegNum), ReadWrite n ∧ n ≠ 0x100)
      ∧ (∀ n ∈ ([0x010, 0x03F, 0x080, 0x101, 0x10F, 0x114, 0x115, 0x11C, 0xFFF] : List RegNum),
          ¬ ReadWrite n ∧ n ≠ 0x100)
      ∧ (∀ n ∈ ([0x010, 0x03F, 0x080, 0x100, 0x105, 0x11C, 0xFFF] : List RegNum), ¬ ReadWrite n ∧ ¬ ReadOnly n)
      ∧ (withOp (.writeReg 0x07F 0x1FFFFFFFF) State.reset).host = [.writeReg 0x07F 0x1FFFFFFFF]
      ∧ (withOp (.readReg 0x104) State.reset).host = [.readReg 0x104] := by
  refine ⟨?_, ?_, ?_, rfl, rfl⟩ <;> simp [ReadWrite, ReadOnly]

theorem witness_HostMemoryAccess :
    (withOp (.writeMem 16777208 .eight 1) State.reset).host = [.writeMem 16777208 .eight 1]
      ∧ 16777208 + accessBytes .eight ≤ State.reset.cfg.memSz ∧ State.reset.cfg.memSz < 16777209 + accessBytes .eight
      ∧ (withOp (.readMem 16777215 .one) State.reset).host = [.readMem 16777215 .one]
      ∧ 16777215 + accessBytes .one ≤ State.reset.cfg.memSz := by decide

/-- A scalar fault, a common-check fault, and a data fault. -/
theorem witness_FaultFrame :
    (∃ t, exec (.isetup 1 2) (withRegs 0 1) = .next t ∧ t.err = true)
      ∧ (∃ t, exec .bwtf (bulk 3 1 1 [0]) = .next t ∧ t.err = true) ∧ FailsCommonCheck .bwtf (bulk 3 1 1 [0])
      ∧ (∃ t, exec .hufe State.reset = .next t ∧ t.err = true) ∧ hasOutput (.isetup 1 2) = false :=
  ⟨next_of_after (f := fun t => t.err) (by decide +kernel), next_of_after (f := fun t => t.err) (by decide +kernel),
    .inl ⟨rfl, by unfold State.EwLegal; decide⟩, next_of_after (f := fun t => t.err) (by decide +kernel), rfl⟩

/-- The five checks, each failing at the edge of its range, and the three commands that run only some of them. -/
theorem witness_CommonChecksInOrder :
    (usesEw .bwtf = true ∧ ¬ (bulk 3 0 0 []).EwLegal ∧ ¬ (bulk 0 0 0 []).EwLegal)
      ∧ ((bulk 1 0 0 []).EwLegal ∧ (bulk 1 16777217 0 []).cfg.maxElems < (bulk 1 16777217 0 []).len.toNat
        ∧ inputBytes .bwtf (bulk 1 16777217 0 []) = some 16777217)
      ∧ (({ bulk 4 1 0 [] with pa := 16777213 } : State).EwLegal
        ∧ ({ bulk 4 1 0 [] with pa := 16777213 } : State).cfg.memSz < 16777213 + 4
        ∧ inputBytes .mtfe ({ bulk 4 1 0 [] with pa := 16777213 } : State) = some 4)
      ∧ (¬ ({ bulk 1 0 1 [] with pb := 16777216 } : State).OutputReady
        ∧ ({ bulk 1 0 1 [] with pb := 16777216 } : State).InputReady 0 ∧ hasOutput .hdrp = true
        ∧ inputBytes .hdrp State.reset = none)
      ∧ (({ bulk 1 6 1 banana with pb := 5 } : State).InputReady 6
        ∧ ({ bulk 1 6 1 banana with pb := 5 } : State).OutputReady
        ∧ ¬ ({ bulk 1 6 1 banana with pb := 5 } : State).Disjoint 6)
      ∧ (usesEw .hufe = false ∧ hasOutput .hdru = false ∧ (Instr.blkc true true 5).wellFormed = true) := by
  simp only [State.disjoint_iff, State.EwLegal, State.InputReady, State.OutputReady]
  decide +kernel

theorem legal_rowMajor_small : LegalCurve .rowMajor 2 4 :=
  ⟨by decide, by decide, by decide, by decide, by decide, fun h => absurd rfl h, fun h => by simp at h, by decide⟩

/-- Each shape of a completed command; the slots are not valid, or legal. -/
theorem witness_CompletedCommandFrame :
    ((∀ k, SlotOk ((withIcfg (withRegs 0x1000 0) 2 16).slot k)) ∧ (∀ k, SlotOk (reorderState.slot k))
        ∧ (∀ k, SlotOk ((bulk 1 6 6 banana).slot k)) ∧ ∀ k, SlotOk ((bulk 2 30 64 block16).slot k))
      ∧ (∃ t, exec (.expand 3 1 1) (withIcfg (withRegs 0x1000 0) 2 16) = .next t ∧ (!t.err) = true)
      ∧ (∃ t, exec (.reordi .s0 .s1) reorderState = .next t ∧ (!t.err) = true)
      ∧ (∃ t, exec .bwtf (bulk 1 6 6 banana) = .next t ∧ (!t.err) = true)
      ∧ (∃ t, exec (.blkd true true 1) (bulk 2 30 64 block16) = .next t ∧ (!t.err) = true) :=
  ⟨⟨fun k => by cases k <;> exact fun h => absurd h (by decide),
      fun k => by cases k; exacts [fun _ => legal_rowMajor_small, fun _ => legal_morton],
      fun k => by cases k <;> exact fun h => absurd h (by decide),
      fun k => by cases k <;> exact fun h => absurd h (by decide)⟩,
    next_of_after (f := fun t => !t.err) (by decide +kernel), next_of_after (f := fun t => !t.err) (by decide +kernel),
    next_of_after (f := fun t => !t.err) (by decide +kernel), next_of_after (f := fun t => !t.err) (by decide +kernel)⟩

theorem witness_SystemCommands : ({ busyState with err := false, errcode := 0, errinfo := 0 } : State).Inv :=
  { busyState_inv with noFault := fun _ => ⟨rfl, rfl⟩, faultCode := fun h => by cases h }

theorem not_power_six : ¬ ∃ e, 6 = 2 ^ e := by
  rintro ⟨e, he⟩
  have : e < 3 := (Nat.pow_lt_pow_iff_right (by decide : 1 < 2)).mp (he ▸ (by decide : 6 < 2 ^ 3))
  interval_cases e <;> simp at he

/-- Each clause of `CSETUP`: the type; `N` = 0, 65, and 3 on HILBERT; `L` = 1, 2^32 + 1 and 6 on MORTON; the interleave width
of N 3, L 2^22; the total of N 2, L 2^32; and N 63, L 2, the largest Morton curve. -/
theorem witness_CsetupConstructs :
    (∀ ty ∈ [1, 5, 6, 7], (ty : BitVec 3) ≠ 0 ∧ ty ≠ 2 ∧ ty ≠ 3 ∧ ty ≠ 4)
      ∧ (4 : BitVec 3).toNat = curveTypeNumber .hilbert ∧ (2 : BitVec 3).toNat = curveTypeNumber .morton
      ∧ ((withRegs 0 4).reg 1).toNat = 0 ∧ ((withRegs 65 4).reg 1).toNat = 65 ∧ ((withRegs 3 4).reg 1).toNat ≠ 2
      ∧ ((withRegs 2 1).reg 2).toNat ≤ 1 ∧ 2 ^ 32 < ((withRegs 2 0x100000001).reg 2).toNat
      ∧ ((withRegs 2 6).reg 2).toNat = 6 ∧ (¬ ∃ e, 6 = 2 ^ e)
      ∧ 2 ^ min 32 (64 / ((withRegs 3 0x400000).reg 1).toNat) < ((withRegs 3 0x400000).reg 2).toNat
      ∧ ((∃ e, 4194304 = 2 ^ e) ∧ ((withRegs 3 0x400000).reg 2).toNat = 4194304)
      ∧ (¬ 2 ^ min 32 (64 / 2) < 2 ^ 32 ∧ 2 ^ 64 ≤ (2 ^ 32) ^ 2 ∧ ((withRegs 2 0x100000000).reg 2).toNat = 2 ^ 32)
      ∧ (¬ 2 ^ min 32 (64 / 63) < 2 ∧ 2 ^ 63 < 2 ^ 64 ∧ ((withRegs 63 2).reg 1).toNat = 63) :=
  ⟨by decide, by decide, by decide, by decide +kernel, by decide +kernel, by decide +kernel, by decide +kernel,
    by decide +kernel, by decide +kernel, not_power_six, by decide +kernel, ⟨⟨22, by decide⟩, by decide +kernel⟩,
    by decide +kernel, by decide +kernel⟩

theorem witness_CcloneCopies : (State.reset.slot .s1).valid = false ∧ (busyState.slot .s0).valid = true := by decide

/-- (3, 4) on MORTON, L 4, with the lowest bad index 1; and (3, 1), in range. -/
theorem witness_C2dComputesDistance :
    (State.reset.slot .s0).valid = false
      ∧ ((busyState.setCoords [3, 4]).slot .s0).valid = true ∧ SlotOk ((busyState.setCoords [3, 1]).slot .s0)
      ∧ 1 < ((busyState.setCoords [3, 4]).slot .s0).n.toNat ∧ 4 ≤ ((busyState.setCoords [3, 4]).coord 1).toNat
      ∧ (∀ j < 1, ((busyState.setCoords [3, 4]).coord j).toNat < 4)
      ∧ (∀ i < 2, ((busyState.setCoords [3, 1]).coord i).toNat < 4) :=
  ⟨rfl, by decide +kernel, fun _ => legal_morton, by decide +kernel, by decide +kernel, by decide +kernel,
    by decide +kernel⟩

/-- The distances 64 and 63 on HILBERT, L 8. -/
theorem witness_D2cComputesCoordinates :
    (State.reset.slot .s0).valid = false ∧ (busyState.slot .s1).valid = true ∧ SlotOk (busyState.slot .s1)
      ∧ (busyState.slot .s1).l.toNat ^ (busyState.slot .s1).n.toNat ≤ ((busyState.setReg 1 64).reg 1).toNat
      ∧ ((busyState.setReg 1 63).reg 1).toNat < (busyState.slot .s1).l.toNat ^ (busyState.slot .s1).n.toNat :=
  ⟨rfl, rfl, fun _ => legal_hilbert, by decide +kernel, by decide +kernel⟩

theorem witness_RowMajorFormula : (2 : Nat) < 3 := by decide

theorem witness_MortonInterleavesBits : [5, 3, 6].length = 3 ∧ (0 : Nat) < 3 ∧ (2 : Nat) < 3 := by decide

theorem witness_GrayFoldUnfold : (2 ^ 64 - 1 : Nat) < 2 ^ 64 ∧ (64 : Nat) ≤ 64 := by decide

theorem witness_CurvesAreBijections :
    LegalCurve .rowMajor 1 (2 ^ 32) ∧ LegalCurve .morton 2 4 ∧ LegalCurve .gray 63 2 ∧ LegalCurve .hilbert 2 8
      ∧ (63 : Nat) < 8 ^ 2 ∧ [7, 7].length = 2 ∧ (∀ x ∈ [7, 7], x < 8) :=
  ⟨legal_rowMajor_wide, legal_morton, legal_gray, legal_hilbert, by decide, rfl, by decide⟩

theorem witness_HilbertStepsAreAdjacent :
    (62 : Nat) + 1 < (2 ^ 3) ^ 2 ∧ distToCoords .hilbert 62 2 (2 ^ 3) = [7, 1]
      ∧ distToCoords .hilbert (62 + 1) 2 (2 ^ 3) = [7, 0] := by decide +kernel

/-- `N` = 0 and 65, `B` = 0 and 33, `N * B` = 65 (13 * 5), and 64 (2 * 32). -/
theorem witness_IsetupConstructs :
    ((withRegs 0 1).reg 1).toNat = 0 ∧ 64 < ((withRegs 65 1).reg 1).toNat ∧ ((withRegs 1 0).reg 2).toNat = 0
      ∧ 32 < ((withRegs 1 33).reg 2).toNat ∧ 64 < ((withRegs 13 5).reg 1).toNat * ((withRegs 13 5).reg 2).toNat
      ∧ ((withRegs 2 32).reg 1).toNat * ((withRegs 2 32).reg 2).toNat ≤ 64 := by decide +kernel

theorem icfgOk_two : IcfgOk { valid := true, n := 2, b := 32 } := fun _ => by unfold LegalInterleave; decide

/-- The dimension indices 2 (out of range) and 1 (the last) with N 2. -/
theorem witness_ExpandDepositsBits :
    State.reset.icfg.valid = false ∧ busyState.icfg.valid = true ∧ busyState.icfg.n.toNat ≤ (2 : BitVec 8).toNat
      ∧ IcfgOk busyState.icfg ∧ (1 : BitVec 8).toNat < busyState.icfg.n.toNat :=
  ⟨rfl, rfl, by decide, icfgOk_two, by decide⟩

theorem witness_RemoveGathersBits :
    State.reset.icfg.valid = false ∧ busyState.icfg.valid = true ∧ busyState.icfg.n.toNat ≤ (255 : BitVec 8).toNat
      ∧ IcfgOk busyState.icfg ∧ (1 : BitVec 8).toNat < busyState.icfg.n.toNat :=
  ⟨rfl, rfl, by decide, icfgOk_two, by decide⟩

theorem witness_InterleaveRoundTrip :
    LegalInterleave 2 32 ∧ LegalInterleave 64 1 ∧ (2 ^ 32 - 1 : Nat) < 2 ^ 32 ∧ (0 : Nat) ≠ 1
      ∧ (2 ^ 64 - 1 : Nat) < 2 ^ (2 * 32) := by
  unfold LegalInterleave; decide

theorem witness_DepositExtractAgree : LegalInterleave 64 1 ∧ (63 : Nat) < 64 := by unfold LegalInterleave; decide

/-- Both slots of the reorder example, the checks passed and `LEN` = 16. -/
theorem witness_ReorderPermutes :
    SlotOk (reorderState.slot .s0) ∧ SlotOk (reorderState.slot .s1) ∧ (reorderState.slot .s0).valid = true
      ∧ (reorderState.slot .s1).valid = true ∧ (reorderState.slot .s0).n = (reorderState.slot .s1).n
      ∧ (reorderState.slot .s0).l = (reorderState.slot .s1).l ∧ reorderState.EwLegal
      ∧ reorderState.InputReady (reorderState.len.toNat * reorderState.ew.toNat)
      ∧ reorderState.len.toNat = (reorderState.slot .s0).l.toNat ^ (reorderState.slot .s0).n.toNat
      ∧ (∀ x ∈ [3, 3], x < 4) := by
  refine ⟨fun _ => legal_rowMajor_small, fun _ => legal_morton, rfl, rfl, rfl, rfl, .inl (by decide +kernel), ?_,
    by decide +kernel, by decide⟩
  unfold State.InputReady
  decide +kernel

/-- Each clause: `EW` 3, `LEN` above the bound, the region past `MEMSZ` by one byte, slot `from` not valid, slot `to` not valid,
different extents, and `LEN` 15. -/
theorem witness_ReorderChecksInOrder :
    ¬ (bulk 3 0 0 []).EwLegal ∧ (bulk 1 16777217 0 []).EwLegal
      ∧ (bulk 1 16777217 0 []).cfg.maxElems < (bulk 1 16777217 0 []).len.toNat
      ∧ ({ reorderState with pa := 16777201 } : State).cfg.memSz < 16777201 + 16 * 1
      ∧ (bulk 1 16 0 []).InputReady (16 * 1) ∧ ((bulk 1 16 0 []).slot .s0).valid = false
      ∧ ((withSlots (bulk 1 16 0 []) (slotOf .morton 2 4) CurveSlot.empty).slot .s1).valid = false
      ∧ (busyState.slot .s0).l ≠ (busyState.slot .s1).l
      ∧ ({ reorderState with len := 15 } : State).len.toNat ≠
        (reorderState.slot .s0).l.toNat ^ (reorderState.slot .s0).n.toNat := by
  simp only [State.EwLegal, State.InputReady]
  decide +kernel

theorem witness_ReorderStrategiesAgree : SlotOk (busyState.slot .s0) ∧ SlotOk (busyState.slot .s1) :=
  ⟨fun _ => legal_morton, fun _ => legal_hilbert⟩

/-- The hypotheses are those of `ReorderPermutes`. -/
theorem witness_ReorderRestores :
    (Instr.reordi .s0 .s1 = .reordi .s0 .s1 ∧ Instr.reordi .s1 .s0 = .reordi .s1 .s0)
      ∧ SlotOk (reorderState.slot .s0) ∧ SlotOk (reorderState.slot .s1) ∧ (reorderState.slot .s0).valid = true
      ∧ (reorderState.slot .s1).valid = true ∧ (reorderState.slot .s0).n = (reorderState.slot .s1).n
      ∧ (reorderState.slot .s0).l = (reorderState.slot .s1).l ∧ reorderState.EwLegal
      ∧ reorderState.InputReady (reorderState.len.toNat * reorderState.ew.toNat)
      ∧ reorderState.len.toNat = (reorderState.slot .s0).l.toNat ^ (reorderState.slot .s0).n.toNat :=
  have h := witness_ReorderPermutes
  ⟨⟨rfl, rfl⟩, h.1, h.2.1, h.2.2.1, h.2.2.2.1, h.2.2.2.2.1, h.2.2.2.2.2.1, h.2.2.2.2.2.2.1, h.2.2.2.2.2.2.2.1,
    h.2.2.2.2.2.2.2.2.1⟩

theorem witness_BwtForwardSortsRows : [66, 65, 78] ≠ [] := by decide

/-- A region that just fits and one that is a byte short. -/
theorem witness_BwtfDelivers :
    (bulk 1 6 6 banana).TypedReady ((bulk 1 6 6 banana).len.toNat * (bulk 1 6 6 banana).ew.toNat)
      ∧ (bulk 1 6 6 banana).len.toNat * (bulk 1 6 6 banana).ew.toNat ≤ (bulk 1 6 6 banana).cap.toNat
      ∧ (bulk 1 6 5 banana).TypedReady ((bulk 1 6 5 banana).len.toNat * (bulk 1 6 5 banana).ew.toNat)
      ∧ (bulk 1 6 5 banana).cap.toNat < (bulk 1 6 5 banana).len.toNat * (bulk 1 6 5 banana).ew.toNat :=
  ⟨State.typedChecks_ok.mp (by decide +kernel), by decide +kernel, State.typedChecks_ok.mp (by decide +kernel),
    by decide +kernel⟩

/-- R228: the block "AB" with the index 1 is the image of neither rearrangement of it. -/
theorem not_image_ab (xs : List Nat) (h : xs.Perm [0x41, 0x42]) : bwtForward xs ≠ ([0x41, 0x42], 1) := by
  match xs, h.length_eq with
  | [a, b], _ =>
    have ha := h.mem_iff (a := a)
    have hb := h.mem_iff (a := b)
    simp only [List.mem_cons, List.not_mem_nil, or_false, true_or, or_true, true_iff] at ha hb
    rcases ha with rfl | rfl <;> rcases hb with rfl | rfl <;> decide +kernel

/-- The transform of "BANANA" with its index; a constant block; an index equal to `LEN`; and the block of R228 whose walk
does not close. -/
theorem witness_BwtiDelivers :
    (∀ cap ∈ [5, 6], (bulk 1 6 cap [0x42, 0x4E, 0x4E, 0x41, 0x41, 0x41]).typedChecks 6 = .ok ())
      ∧ bwtForward [0x42, 0x41, 0x4E, 0x41, 0x4E, 0x41] =
        ((bulk 1 6 6 [0x42, 0x4E, 0x4E, 0x41, 0x41, 0x41]).readElems 0 1 6, (3 : Word).toNat)
      ∧ ConstantBlock [7, 7, 7] ∧ ¬ ConstantBlock [0x42, 0x4E] ∧ 6 ≤ (6 : Word).toNat
      ∧ (bulk 1 2 2 [0x41, 0x42]).typedChecks 2 = .ok () ∧ ¬ ConstantBlock [0x41, 0x42]
      ∧ (∀ xs, xs.Perm ((bulk 1 2 2 [0x41, 0x42]).readElems 0 1 2) →
        bwtForward xs ≠ ((bulk 1 2 2 [0x41, 0x42]).readElems 0 1 2, 1)) := by
  have hr : (bulk 1 2 2 [0x41, 0x42]).readElems 0 1 2 = [0x41, 0x42] := by decide +kernel
  rw [hr]
  unfold ConstantBlock
  exact ⟨by decide +kernel, by decide +kernel, by decide, by decide, by decide, by decide +kernel, by decide, not_image_ab⟩

theorem witness_BwtInverseAcceptsOnlyImages :
    ¬ ConstantBlock [0x42, 0x4E, 0x4E, 0x41, 0x41, 0x41]
      ∧ bwtInverse [0x42, 0x4E, 0x4E, 0x41, 0x41, 0x41] 3 = .ok [0x42, 0x41, 0x4E, 0x41, 0x4E, 0x41] := by
  unfold ConstantBlock
  decide +kernel

/-- The empty block; "BANANA" with the alphabet of 14 values; two four-byte elements whose alphabet is one above the bound,
and two whose alphabet is the bound. -/
theorem witness_MtfeDelivers :
    (bulk 1 0 0 []).typedChecks 0 = .ok () ∧ (bulk 1 0 0 []).readElems 0 1 0 = []
      ∧ (bulk 1 6 6 banana).typedChecks 6 = .ok () ∧ (bulk 1 6 5 banana).typedChecks 6 = .ok ()
      ∧ (∀ x ∈ (bulk 1 6 6 banana).readElems 0 1 6, 0x41 ≤ x ∧ x ≤ 0x4E)
      ∧ (bulk 4 2 8 [0, 0, 0, 0, 0, 0, 1, 0]).readElems 0 4 2 = [0, 65536]
      ∧ (bulk 4 2 8 [0, 0, 0, 0, 0, 0, 1, 0]).cfg.mtfAmax < 65536 - 0 + 1
      ∧ 65535 - 0 + 1 ≤ (bulk 4 2 8 []).cfg.mtfAmax := by decide +kernel

/-- `VMIN` above `VMAX`, `VMAX` = 256 with one-byte elements, an alphabet of 65537; a first bad code at index 2; and codes that
are all good, with and without room. -/
theorem witness_MtfdDelivers :
    (∀ cap ∈ [5, 6], (bulk 1 6 cap [1, 1, 13, 1, 1, 1]).typedChecks 6 = .ok ())
      ∧ (bulk 1 6 6 [1, 1, 13, 1, 1, 1]).readElems 0 1 6 = [1, 1, 13, 1, 1, 1]
      ∧ (0x40 : Word).toNat < (0x41 : Word).toNat ∧ 2 ^ (8 * 1) ≤ (256 : Word).toNat
      ∧ State.reset.cfg.mtfAmax < (65536 : Word).toNat - 0 + 1
      ∧ ([1, 1, 13, 1, 1, 1] : List Nat)[2]? = some 13 ∧ 0x4D - 0x41 + 1 ≤ 13
      ∧ (∀ j < 2, ([1, 1, 13, 1, 1, 1] : List Nat).getD j 0 < 0x4D - 0x41 + 1)
      ∧ (∀ x ∈ [1, 1, 13, 1, 1, 1], x < 0x4E - 0x41 + 1) := by decide +kernel

theorem witness_MtfCodesAreRecencyRanks : ([5, 5, 7, 5, 6] : List Nat)[3]? = some 5 := by decide

theorem witness_MtfRoundTrip :
    1 ≤ State.reset.cfg.mtfAmax ∧ mtfEncode 65536 [5, 5, 7, 5, 6] = .ok ([0, 0, 2, 1, 2], 5, 7)
      ∧ mtfEncode 1 [] = .ok ([], 0, 0) ∧ mtfDecode [0, 0, 2, 1, 2] 5 7 = .ok [5, 5, 7, 5, 6] := by decide +kernel

theorem witness_BitStreamRoundTrip :
    (511 : Nat) < 2 ^ 9 ∧ ({ bits := [true], pos := 4 } : BitReader).bits.length < 2 := by decide

/-- `HUFE` of "AB" with 37 and with 36 bytes of room, and with a code length bound of 0; `HUFD` with the counts 8 and 1 on
an empty input, and with the stream of "AB". -/
theorem witness_HuffmanCommands :
    (∀ cap ∈ [36, 37], (bulk 1 2 cap [0x41, 0x42]).byteChecks 2 = .ok ())
      ∧ hufMaxLen (hufTable (hufCodes (hufBuild [0x41, 0x42]))) = 1
      ∧ (1 ≤ State.reset.cfg.hufMaxlen ∧ (0 : Nat) < 1)
      ∧ ((bulk 1 0 0 []).byteChecks 0 = .ok () ∧ 7 < (8 : Word).toNat ∧ 8 * 0 < (1 : Word).toNat)
      ∧ (∀ cap ∈ [1, 2], (bulk 1 37 cap hufAB).byteChecks 37 = .ok ())
      ∧ hufEncode 32 [0x41, 0x42] = .ok ((bulk 1 37 2 hufAB).readBytes 0 37, (4 : Word).toNat) := by decide +kernel

/-- The slots of the table of R296. -/
def slotsAB : List (Nat × Nat) := (List.range 256).map (fun a => if a = 0x41 then (1, 0) else if a = 0x42 then (1, 1) else (0, 0))

/-- R295: 256 slots without a code. -/
def slotsEmpty : List (Nat × Nat) := List.replicate 256 (0, 0)

/-- The head of a stream and its first slots. -/
def headBits (count w : Nat) (slots : List (Nat × Nat)) : List Bool :=
  putBits count 16 ++ putBits w 16 ++ hufSlotBits w slots

/-- The decoding clauses: no byte and three bytes; length fields of 0 and 17; a stream that ends before the first slot, a
length 33 with the bound 32, a slot whose code is cut short and a code given twice; a count of 1 without a code; and
after the table of R296 the payload of "AB", nothing more, or after an empty table eight bits that match no code. -/
theorem witness_HuffmanCommands_decoding :
    ((streamBits [] 0).length < 16 ∧ 16 ≤ (streamBits [0, 0, 0] 0).length ∧ (streamBits [0, 0, 0] 0).length < 32)
      ∧ (streamBits [0, 0, 0, 0] 0 = putBits 0 16 ++ putBits 0 16 ++ []
        ∧ streamBits [0, 0, 0, 17] 0 = putBits 0 16 ++ putBits 17 16 ++ [])
      ∧ (HufSlotsOk 32 6 [] ∧ streamBits [0, 0, 0, 6] 0 = headBits 0 6 [] ++ [] ∧ ([] : List Bool).length < 6)
      ∧ streamBits [0, 0, 0, 6, 0x84] 2 = headBits 0 6 [] ++ (putBits 33 6 ++ [])
      ∧ streamBits [0, 0, 0, 6, 0x08] 1 = headBits 0 6 [] ++ (putBits 2 6 ++ [false])
      ∧ (HufSlotsOk 32 1 [(1, 0)] ∧ streamBits [0, 2, 0, 1, 0xA0] 4 = headBits 2 1 [(1, 0)] ++ (putBits 1 1 ++ [false])
        ∧ putBits 0 1 <+: [false] ∧ (1, 0) ∈ [((1, 0) : Nat × Nat)])
      ∧ (HufSlotsOk 32 1 slotsEmpty ∧ slotsEmpty.length = 256 ∧ slotsEmpty.countP (fun p => decide (0 < p.1)) = 0
        ∧ streamBits ([0, 1, 0, 1] ++ List.replicate 32 0) 0 = headBits 1 1 slotsEmpty ++ [])
      ∧ (HufSlotsOk 32 1 slotsAB ∧ slotsAB.length = 256 ∧ slotsAB.countP (fun p => decide (0 < p.1)) = 2
        ∧ streamBits hufAB 4 = headBits 2 1 slotsAB ++ ([0x41, 0x42].flatMap (hufCodeBits slotsAB) ++ [])
        ∧ (∀ a ∈ [0x41, 0x42], HufMatched slotsAB a) ∧ HufNoMatch slotsAB [])
      ∧ (HufNoMatch slotsEmpty (List.replicate 8 false)
        ∧ streamBits ([0, 0, 0, 1] ++ List.replicate 33 0) 0 = headBits 0 1 slotsEmpty ++ List.replicate 8 false) := by
  unfold HufSlotsOk HufMatched HufNoMatch
  exact ⟨by decide, by decide, by decide +kernel, by decide +kernel, by decide +kernel, by decide +kernel,
    by decide +kernel, by decide +kernel, by decide +kernel⟩

theorem witness_HuffmanRoundTrip : hufEncode 32 [0x41, 0x42] = .ok (hufAB, 4) := by decide +kernel

theorem witness_HuffmanCodesArePrefixFree :
    (∀ x ∈ [0, 255, 255], x < 256) ∧ ConstantBlock [255, 255] := by
  unfold ConstantBlock; decide

/-- `LZWE` of "A" with two bytes of room and with one; `LZWD` with a bad count, with a first code of 256 (R318) and with the
stream of "A". -/
theorem witness_LzwCommands :
    (∀ cap ∈ [1, 2], (bulk 1 1 cap [0x41]).byteChecks 1 = .ok ())
      ∧ ([0x20, 0x80], 7) = lzwEncode ((bulk 1 1 2 [0x41]).readBytes 0 1)
      ∧ (∀ cap ∈ [0, 1], (bulk 1 2 cap [0x20, 0x80]).byteChecks 2 = .ok ())
      ∧ lzwEncode [0x41] = ((bulk 1 2 1 [0x20, 0x80]).readBytes 0 2, (7 : Word).toNat)
      ∧ (7 < (8 : Word).toNat ∧ 9 + (7 : Word).toNat ≤ 8 * 2)
      ∧ 256 = 2 * ((bulk 1 2 1 [0x80, 0x00]).readByte 0).toNat + (((bulk 1 2 1 [0x80, 0x00]).readByte 1).getLsbD 7).toNat := by
  decide +kernel

/-- A property of every code with its index, as a check of the list. -/
theorem codes_of_zipIdx {codes : List Nat} {P : Nat → Nat → Prop} (h : ∀ x ∈ codes.zipIdx, P x.2 x.1) (i c : Nat)
    (hc : codes[i]? = some c) : P i c :=
  h (c, i) (List.mem_zipIdx_iff_getElem?.mpr hc)

/-- The decoding clauses: R318's streams cut short after one code and with code 258 after one code; the stream of "ABABABA"
with its strings; and the widths and greatest codes about the thresholds of R312 and the clear of R313. -/
theorem witness_LzwCommands_decoding :
    (LzwCodesOk [65] ∧ streamBits [0x20, 0x80] 3 = lzwCodeBits [65] ++ [false, false, false, false]
        ∧ 4 < lzwCodeWidth [65].length)
      ∧ (streamBits [0x20, 0xC0, 0x80, 0x80] 5 = lzwCodeBits [65] ++ (streamBits [0x20, 0xC0, 0x80, 0x80] 5).drop 9
        ∧ putBits 258 (lzwCodeWidth [65].length) <+: (streamBits [0x20, 0xC0, 0x80, 0x80] 5).drop 9
        ∧ lzwCodeMax [65].length < 258)
      ∧ (LzwCodesOk [65, 66, 256, 258] ∧ streamBits [0x20, 0x90, 0xA0, 0x10, 0x20] 4 = lzwCodeBits [65, 66, 256, 258] ++ []
        ∧ LzwStrings [65, 66, 256, 258] [[65], [66], [65, 66], [65, 66, 65]])
      ∧ [0, 256, 257, 768, 769, 1792, 1793, 3839, 3840].map lzwCodeWidth = [9, 9, 10, 10, 11, 11, 12, 12, 9]
      ∧ [0, 1, 3839, 3840, 3841].map lzwCodeMax = [255, 256, 4094, 255, 256] :=
  ⟨⟨codes_of_zipIdx (by decide), by decide +kernel, by decide⟩, by decide +kernel,
    ⟨codes_of_zipIdx (by decide), by decide +kernel, rfl, codes_of_zipIdx (by decide)⟩, by decide, by decide⟩

/-- `RLEE` of a run of two with two bytes of room and with one; `RLED` of three bytes, of two pairs, and with one byte of
room too few. -/
theorem witness_RleCommands :
    (∀ cap ∈ [1, 2], (bulk 1 2 cap [7, 7]).typedChecks 2 = .ok ())
      ∧ [2, 7] = rleEncode 1 ((bulk 1 2 2 [7, 7]).readElems 0 1 2)
      ∧ ((bulk 1 3 9 [3, 7, 1]).typedChecks 3 = .ok () ∧ 3 % (1 + 1) ≠ 0)
      ∧ ((∀ cap ∈ [1, 2], (bulk 1 4 cap [0, 9, 2, 4]).typedChecks 4 = .ok ()) ∧ 4 % (1 + 1) = 0) := by
  decide +kernel

theorem witness_RleRoundTrip :
    (∀ x ∈ [255, 255], x < 256 ^ 1) ∧ rleDecode 1 [255, 7, 1, 7] = .ok (List.replicate 256 7)
      ∧ rleEncode 1 (List.replicate 256 7) = [255, 7, 1, 7] := by decide +kernel

/-- The output region past `MEMSZ`; `NPAD` 8 as the first bad field of a header with padding, `NDIMS` 0 as the first of
all; the good header of R344 with ten bytes of room and with nine. -/
theorem witness_HdrpPacks :
    State.reset.cfg.memSz < 16777216 + 1
      ∧ ((bulk 1 0 10 []).OutputReady ∧ (bulk 1 0 9 []).OutputReady)
      ∧ (¬ HdrFieldLegal 2 4 1 2 8 8 5 ∧ (∀ j < 5, HdrFieldLegal 2 4 1 2 8 8 j) ∧ InPaddingSet 8)
      ∧ ¬ HdrFieldLegal 0 4 1 2 8 3 0
      ∧ ((∀ i ≤ 4, HdrFieldLegal 2 4 1 2 8 3 i) ∧ HdrFieldLegal 2 4 1 2 8 3 5)
      ∧ ((∀ i ≤ 4, HdrFieldLegal 3 5 4 4 1 255 i) ∧ ¬ InPaddingSet 1) := by
  refine ⟨by decide, ⟨by unfold State.OutputReady; decide +kernel, by unfold State.OutputReady; decide +kernel⟩,
    ⟨by simp [HdrFieldLegal], fun j hj => ?_, by simp [InPaddingSet]⟩, by simp [HdrFieldLegal],
    ⟨fun i hi => ?_, by simp [HdrFieldLegal]⟩, ⟨fun i hi => ?_, by simp [InPaddingSet]⟩⟩
  · interval_cases j <;> simp [HdrFieldLegal]
  · interval_cases i <;> simp [HdrFieldLegal]
  · interval_cases i <;> simp [HdrFieldLegal]

/-- The bytes of a header at address 0. -/
def headerState (len : Nat) (rest : List Byte) : State := bulk 1 len 0 ([0x53, 0x46, 0x43, 0x43] ++ rest)

/-- `LEN` 8 and 9; a wrong magic; a field out of range; nine bytes of a ten-byte header; its padding byte 8 and 7; and a
nine-byte header. -/
theorem witness_HdruUnpacks :
    (bulk 1 16777217 0 []).cfg.maxElems < (bulk 1 16777217 0 []).len.toNat
      ∧ State.reset.cfg.memSz < 16777216 + 1
      ∧ ((headerState 8 []).InputReady 8 ∧ (headerState 8 []).len.toNat < 9)
      ∧ ((headerState 9 []).InputReady 9 ∧ 9 ≤ (headerState 9 []).len.toNat)
      ∧ (bulk 1 9 0 [0x53, 0x46, 0x43, 0x58]).readByte 3 ≠ 0x43
      ∧ (headerState 9 [0, 4, 1, 2, 8]).readByte 4 = 0
      ∧ (headerState 9 [2, 4, 1, 2, 8]).readByte 8 = 8
      ∧ ((headerState 10 [2, 4, 1, 2, 8, 8]).readByte 9 = 8 ∧ (headerState 10 [2, 4, 1, 2, 8, 7]).readByte 9 = 7)
      ∧ (headerState 9 [2, 2, 1, 0, 0]).readByte 8 = 0 := by
  simp only [State.InputReady]
  decide +kernel

theorem witness_HeaderRoundTrip :
    ∃ t, exec .hdrp { bulk 1 0 10 [] with hdr := 0x0000030802010402 } = .next t
      ∧ (decide (t.err = false ∧ t.olen.toNat ≤ 16777216)) = true :=
  next_of_after (f := fun t => decide (t.err = false ∧ t.olen.toNat ≤ 16777216)) (by decide +kernel)

/-- The block of R359 with room and a byte short; the alphabet of one value above the bound; the Huffman encoder's fault
with a bound of 0; and a length above the field's bound. -/
theorem witness_BlkcDelivers :
    (∀ cap ∈ [23, 24], (bulk 2 4 cap [0xE8, 3, 0xE8, 3, 0xEA, 3, 0xE8, 3]).typedChecks 8 = .ok ())
      ∧ (bulk 2 4 24 [0xE8, 3, 0xE8, 3, 0xEA, 3, 0xE8, 3]).readElems 0 2 4 = [1000, 1000, 1002, 1000]
      ∧ bwtForward [1000, 1000, 1002, 1000] = ([1000, 1002, 1000, 1000], 0)
      ∧ mtfEncodeLoop (alphabet 1000 1002) [1000, 1002, 1000, 1000] = [0, 2, 1, 0]
      ∧ (rleEncode 2 [0, 2, 1, 0]).length = 12
      ∧ (bulk 4 2 8 [0, 0, 0, 0, 0, 0, 1, 0]).cfg.mtfAmax < blockMax [0, 65536] - blockMin [0, 65536] + 1
      ∧ hufEncode 0 [1] = .error ⟨.eHufCodelen, 1⟩
      ∧ ({ cfg := { memSz := 2 ^ 34, maxElems := 2 ^ 34, mtfAmax := 1, hufMaxlen := 1 },
           r := State.reset.r, coords := State.reset.coords, busy := false, err := false, errcode := 0, errinfo := 0,
           icfg := Icfg.empty, curve0 := CurveSlot.empty, curve1 := CurveSlot.empty, pa := 0, pb := 0,
           len := 0x40000000, cap := 0, olen := 0, used := 0, pidx := 0, vmin := 0, vmax := 0, padb := 0, ew := 4,
           hdr := 0, mem := [], drawn := [], host := [], answers := [] } : State).typedChecks (2 ^ 32) = .ok () := by
  decide +kernel

/-- `LEN` one less than the block header, and one less than the block; and the block of R359 with bytes after it, with room
and a byte short. -/
theorem witness_BlkdDelivers :
    codecOf 1 = some .rle ∧ State.reset.cfg.wf
      ∧ (bulk 2 11 0 block16).typedChecks 11 = .ok () ∧ (bulk 2 23 0 block16).typedChecks 23 = .ok ()
      ∧ 12 + leValue ((bulk 2 23 0 block16).readBytes 0 4) = 24
      ∧ (∀ cap ∈ [7, 8], (bulk 2 30 cap block16).typedChecks 30 = .ok ())
      ∧ (∀ x ∈ [1000, 1000, 1002, 1000], x < 256 ^ 2)
      ∧ blockCompress true true .rle 65536 32 2 [1000, 1000, 1002, 1000] = .ok {
          out := block16, used := none, pidx := some 0, vmin := some 1000, vmax := some 1002, padb := none }
      ∧ (bulk 2 30 8 block16).readBytes 0 24 = block16 := by decide +kernel

/-- A block of one-byte elements, with room for `cap` bytes. -/
def blockState (cap : Nat) (bytes : List Byte) : State := bulk 1 bytes.length cap bytes

/-- The clauses of a corrupt block: a payload of three RLE bytes; an empty Huffman payload (R294: `E_STREAM_TRUNC(0)`); an
LZW payload whose first code is 256 (R318); one byte of two-byte elements; a minimum above the maximum; a rank outside an
alphabet of one value; the block of R228 that is no image; and a plain block of two elements with room and without. -/
theorem witness_BlkdDelivers_corrupt :
    ((blockState 0 [3, 0, 0, 0, 1, 7, 1]).typedChecks 7 = .ok ()
        ∧ (blockState 0 [3, 0, 0, 0, 1, 7, 1]).readBytes 4 3 = [1, 7, 1] ∧ [1, 7, 1].length % (1 + 1) ≠ 0)
      ∧ ((blockState 0 [0, 0, 0, 0, 0]).typedChecks 5 = .ok () ∧ hufDecode 32 [] 0 = .error ⟨.eStreamTrunc, 0⟩)
      ∧ ((blockState 0 [2, 0, 0, 0, 7, 0x80, 0]).typedChecks 7 = .ok ()
        ∧ (blockState 0 [2, 0, 0, 0, 7, 0x80, 0]).readBytes 5 2 = [0x80, 0]
        ∧ lzwDecode [0x80, 0] ((blockState 0 [2, 0, 0, 0, 7, 0x80, 0]).readByte 4).toNat = .error ⟨.eLzwCode, 256⟩)
      ∧ ((bulk 2 5 0 [1, 0, 0, 0, 9]).typedChecks 5 = .ok () ∧ (bulk 2 5 0 [1, 0, 0, 0, 9]).readBytes 4 1 = [9]
        ∧ [9].length % 2 ≠ 0)
      ∧ ((blockState 0 [1, 0, 0, 0, 5, 4, 0]).typedChecks 7 = .ok () ∧ PayloadHolds 0 32 1 [0] 0 [0]
        ∧ leValue ((blockState 0 [1, 0, 0, 0, 5, 4, 0]).readBytes 5 1)
          < leValue ((blockState 0 [1, 0, 0, 0, 5, 4, 0]).readBytes 4 1))
      ∧ ((blockState 0 [1, 0, 0, 0, 4, 4, 1]).typedChecks 7 = .ok () ∧ PayloadHolds 0 32 1 [1] 0 [1]
        ∧ [1][0]? = some 1 ∧ 4 - 4 + 1 ≤ 1)
      ∧ ((blockState 0 [2, 0, 0, 0, 1, 0, 0, 0, 0x41, 0x42]).typedChecks 10 = .ok ()
        ∧ leValue ((blockState 0 [2, 0, 0, 0, 1, 0, 0, 0, 0x41, 0x42]).readBytes (8 - 4) 4) = 1
        ∧ PayloadHolds 0 32 1 [0x41, 0x42] 0 [0x41, 0x42] ∧ ¬ ConstantBlock [0x41, 0x42]
        ∧ ∀ xs : List Nat, xs.Perm [0x41, 0x42] → bwtForward xs ≠ ([0x41, 0x42], 1))
      ∧ (∀ cap ∈ [1, 2], (blockState cap [2, 0, 0, 0, 0x41, 0x42]).typedChecks 6 = .ok ()) := by
  unfold PayloadHolds ConstantBlock
  exact ⟨by decide +kernel, by decide +kernel, by decide +kernel, by decide +kernel, by decide +kernel,
    by decide +kernel, ⟨by decide +kernel, by decide +kernel, by decide +kernel, by decide, not_image_ab⟩,
    by decide +kernel⟩

theorem witness_BlockRoundTrip :
    (bulk 2 4 64 [0xE8, 3, 0xE8, 3, 0xEA, 3, 0xE8, 3]).cfg.wf
      ∧ ∃ t, exec (.blkc true true 1) (bulk 2 4 64 [0xE8, 3, 0xE8, 3, 0xEA, 3, 0xE8, 3]) = .next t
        ∧ t.err = false ∧ ({ t with pa := t.pb, len := t.olen, pb := 1024, cap := 8 } : State).TypedReady t.olen.toNat := by
  refine ⟨by decide, ?_⟩
  obtain ⟨t, ht, hp⟩ := next_of_after
    (o := exec (.blkc true true 1) (bulk 2 4 64 [0xE8, 3, 0xE8, 3, 0xEA, 3, 0xE8, 3]))
    (f := fun t => decide (t.err = false ∧
      ({ t with pa := t.pb, len := t.olen, pb := 1024, cap := 8 } : State).typedChecks t.olen.toNat = .ok ()))
    (by decide +kernel)
  have hp := of_decide_eq_true hp
  exact ⟨t, ht, hp.1, State.typedChecks_ok.mp hp.2⟩

end Sys2Proof.Tests
end

/-! PROOFS. The register space of the host (10_state.md R25, R26, R44): the number of each register, what a
host read and a host write of a number do, and the two statements that follow from them. -/

namespace Sys2Proof.Machine

/-! ### Register numbers and names -/

/-- The number of a register in the table of R25, the inverse of `regName`. -/
def RegName.number : RegName → RegNum
  | .r i => i.setWidth 12
  | .c i => 0x40 + i.setWidth 12
  | .cmd => 0x100
  | .status => 0x101
  | .errcode => 0x102
  | .errinfo => 0x103
  | .icfg => 0x104
  | .curve0 => 0x108
  | .curve1 => 0x109
  | .pa => 0x110
  | .pb => 0x111
  | .len => 0x112
  | .cap => 0x113
  | .olen => 0x114
  | .used => 0x115
  | .pidx => 0x116
  | .vmin => 0x117
  | .vmax => 0x118
  | .padb => 0x119
  | .ew => 0x11A
  | .hdr => 0x11B

theorem RegName.toNat_number_r (i : RegIx) : (RegName.r i).number.toNat = i.toNat := by
  simp only [RegName.number]
  bv_omega

theorem RegName.toNat_number_c (i : BitVec 6) : (RegName.c i).number.toNat = 0x40 + i.toNat := by
  simp only [RegName.number]
  bv_omega

/-- Every register has its number in the table. -/
@[simp] theorem regName_number (x : RegName) : regName x.number = some x := by
  cases x with
  | r i =>
    have hi : (RegName.r i).number.toNat < 0x10 := by rw [RegName.toNat_number_r]; exact i.isLt
    have hix : (RegName.r i).number.extractLsb' 0 4 = i := by
      apply BitVec.eq_of_toNat_eq
      simpa [BitVec.extractLsb'_toNat, RegName.toNat_number_r] using i.isLt
    unfold regName
    rw [if_pos hi, hix]
  | c i =>
    have hn := RegName.toNat_number_c i
    have hlo : ¬ (RegName.c i).number.toNat < 0x10 := by omega
    have hhi : 0x40 ≤ (RegName.c i).number.toNat ∧ (RegName.c i).number.toNat < 0x80 := by omega
    have hix : (RegName.c i).number.extractLsb' 0 6 = i := by
      apply BitVec.eq_of_toNat_eq
      simpa [BitVec.extractLsb'_toNat, hn] using i.isLt
    unfold regName
    rw [if_neg hlo, if_pos hhi, hix]
  | _ => rfl

theorem RegName.number_injective : Function.Injective RegName.number := fun x y h => by
  simpa using congrArg regName h

/-- A number names only the register it is the number of. -/
theorem number_of_regName {n : RegNum} {x : RegName} (h : regName n = some x) : x.number = n := by
  unfold regName at h
  split_ifs at h with hr hc
  · cases h
    apply BitVec.eq_of_toNat_eq
    rw [RegName.toNat_number_r]
    simp; omega
  · cases h
    apply BitVec.eq_of_toNat_eq
    rw [RegName.toNat_number_c]
    simp; omega
  · split at h <;> cases h <;> rfl

/-- A register number is the number of a register, or stands in no row of the table. -/
theorem regName_none_or_number (n : RegNum) : regName n = none ∨ ∃ x : RegName, x.number = n := by
  cases h : regName n with
  | none => exact .inl rfl
  | some x => exact .inr ⟨x, number_of_regName h⟩

/-! ### Read-write numbers -/

/-- Every read-write number names a register. -/
theorem exists_number_of_readWrite {n : RegNum} (h : ReadWrite n) : ∃ x : RegName, x.number = n := by
  refine (regName_none_or_number n).resolve_left fun hnone => ?_
  unfold regName at hnone
  unfold ReadWrite at h
  split_ifs at hnone with hr hc
  split at hnone <;> simp only [reduceCtorEq] at hnone
  simp only [← BitVec.toNat_inj, imp_false, BitVec.toNat_ofNat] at *
  omega

theorem readWrite_r (i : RegIx) : ReadWrite (RegName.r i).number := by
  have := RegName.toNat_number_r i
  unfold ReadWrite
  omega

theorem readWrite_c (i : BitVec 6) : ReadWrite (RegName.c i).number := by
  have := RegName.toNat_number_c i
  unfold ReadWrite
  omega

/-! ### Host reads and writes of a number -/

theorem State.readRegister_of_none {n : RegNum} (s : State) (h : regName n = none) : s.readRegister n = 0 := by
  simp [State.readRegister, h]

theorem State.writeRegister_of_none {n : RegNum} (s : State) (v : Word) (h : regName n = none) :
    s.writeRegister n v = s := by
  simp [State.writeRegister, h]

@[simp] theorem State.readRegister_r (s : State) (i : RegIx) : s.readRegister (RegName.r i).number = s.reg i := by
  simp [State.readRegister]

@[simp] theorem State.readRegister_c (s : State) (i : BitVec 6) :
    s.readRegister (RegName.c i).number = (s.coord i.toNat).setWidth 64 := by
  simp [State.readRegister]

@[simp] theorem State.writeRegister_r (s : State) (i : RegIx) (v : Word) :
    s.writeRegister (RegName.r i).number v = s.setReg i v := by
  simp [State.writeRegister]

@[simp] theorem State.writeRegister_c (s : State) (i : BitVec 6) (v : Word) :
    s.writeRegister (RegName.c i).number v
      = { s with coords := s.coords.set i.toNat (v.setWidth 32) i.isLt } := by
  simp [State.writeRegister]

/-- A host write of a register leaves the bytes of `MEM` alone. -/
@[simp] theorem State.writeRegister_mem (s : State) (n : RegNum) (v : Word) : (s.writeRegister n v).mem = s.mem := by
  unfold State.writeRegister
  split <;> rfl

@[simp] theorem State.writeRegister_drawn (s : State) (n : RegNum) (v : Word) :
    (s.writeRegister n v).drawn = s.drawn := by
  unfold State.writeRegister
  split <;> rfl

@[simp] theorem State.writeRegister_host (s : State) (n : RegNum) (v : Word) :
    (s.writeRegister n v).host = s.host := by
  unfold State.writeRegister
  split <;> rfl

theorem State.sameMemory_writeRegister (s : State) (n : RegNum) (v : Word) : SameMemory s (s.writeRegister n v) :=
  fun a => by simp [State.readByte]

/-- A coordinate register after a host write of coordinate register `i`. -/
theorem State.coord_setCoord (s : State) (i j : BitVec 6) (v : CoordWord) :
    ({ s with coords := s.coords.set i.toNat v i.isLt } : State).coord j.toNat
      = if j = i then v else s.coord j.toNat := by
  have hj : j.toNat < 64 := j.isLt
  simp [State.coord, hj, Vector.get_eq_getElem, Vector.getElem_set, BitVec.toNat_inj, eq_comm]

/-- The low `CW` bits of a word, zero-extended (R23). -/
theorem setWidth_coordWord (v : Word) : (v.setWidth 32).setWidth 64 = v &&& 0xFFFFFFFF := by
  apply BitVec.eq_of_toNat_eq
  have hmask : v.toNat &&& 0xFFFFFFFF = v.toNat % 2 ^ 32 := Nat.and_two_pow_sub_one_eq_mod v.toNat 32
  simp [hmask]
  omega

/-- R26: a read-write register reads back what was written to it. -/
theorem State.readRegister_writeRegister_same (s : State) (v : Word) {x : RegName} (h : ReadWrite x.number) :
    (s.writeRegister x.number v).readRegister x.number = storedWord x.number v := by
  cases x with
  | r i =>
    have hi : ¬ 0x40 ≤ (RegName.r i).number.toNat := by rw [RegName.toNat_number_r]; omega
    simp [storedWord, hi]
  | c i =>
    have hi : 0x40 ≤ (RegName.c i).number.toNat ∧ (RegName.c i).number.toNat < 0x80 := by
      rw [RegName.toNat_number_c]; omega
    rw [State.writeRegister_c, State.readRegister_c, State.coord_setCoord, if_pos rfl, storedWord, if_pos hi,
      setWidth_coordWord]
  | cmd | status | errcode | errinfo | icfg | curve0 | curve1 | olen | used =>
    exact absurd h (by simp [ReadWrite, RegName.number])
  | pa | pb | len | cap | pidx | vmin | vmax | padb | ew | hdr => rfl

/-- R26: no host write of a register shows in another register. -/
theorem State.readRegister_writeRegister_other (s : State) (v : Word) {x y : RegName} (h : y ≠ x) :
    (s.writeRegister x.number v).readRegister y.number = s.readRegister y.number := by
  cases x with
  | r i =>
    rw [State.writeRegister_r]
    cases y with
    | r j => simpa using s.reg_setReg_other i j v (by simpa using h)
    | _ => simp only [State.readRegister, regName_number] <;> rfl
  | c i =>
    rw [State.writeRegister_c]
    cases y with
    | c j => rw [State.readRegister_c, State.coord_setCoord, if_neg (by simpa using h), State.readRegister_c]
    | _ => simp only [State.readRegister, regName_number] <;> rfl
  | cmd | status | errcode | errinfo | icfg | curve0 | curve1 | olen | used => rfl
  | pa | pb | len | cap | pidx | vmin | vmax | padb | ew | hdr =>
    simp only [State.writeRegister, State.readRegister, regName_number]
    -- `y = x` contradicts `h`; every other register is a field the write leaves alone.
    cases y <;> try contradiction
    all_goals rfl

/-- What a register number reads after a host write of a read-write register. -/
theorem State.readRegister_writeRegister (s : State) {n : RegNum} (v : Word) (m : RegNum) (h : ReadWrite n) :
    (s.writeRegister n v).readRegister m = if m = n then storedWord n v else s.readRegister m := by
  obtain ⟨x, rfl⟩ := exists_number_of_readWrite h
  obtain hnone | ⟨y, rfl⟩ := regName_none_or_number m
  · have hm : m ≠ x.number := fun e => by simp [e] at hnone
    rw [if_neg hm, State.readRegister_of_none _ hnone, State.readRegister_of_none _ hnone]
  · by_cases hxy : y = x
    · subst hxy
      rw [if_pos rfl, State.readRegister_writeRegister_same s v h]
    · rw [if_neg (RegName.number_injective.ne hxy), State.readRegister_writeRegister_other s v hxy]

/-- R26: a host write of a number that is not read-write is ignored. -/
theorem State.writeRegister_of_not_readWrite (s : State) {n : RegNum} (v : Word) (h : ¬ ReadWrite n) :
    s.writeRegister n v = s := by
  obtain hnone | ⟨x, rfl⟩ := regName_none_or_number n
  · exact s.writeRegister_of_none v hnone
  · cases x with
    | r i => exact absurd (readWrite_r i) h
    | c i => exact absurd (readWrite_c i) h
    | cmd | status | errcode | errinfo | icfg | curve0 | curve1 | olen | used => rfl
    | pa | pb | len | cap | pidx | vmin | vmax | padb | ew | hdr =>
      exact absurd (by simp [ReadWrite, RegName.number]) h

/-- R26: a number that is neither read-write nor read-only reads 0. -/
theorem State.readRegister_of_not_readable (s : State) {n : RegNum} (hrw : ¬ ReadWrite n) (hro : ¬ ReadOnly n) :
    s.readRegister n = 0 := by
  obtain hnone | ⟨x, rfl⟩ := regName_none_or_number n
  · exact s.readRegister_of_none hnone
  · cases x with
    | r i => exact absurd (readWrite_r i) hrw
    | c i => exact absurd (readWrite_c i) hrw
    | cmd => rfl
    | status | errcode | errinfo | icfg | curve0 | curve1 | olen | used =>
      exact absurd (by simp [ReadOnly, RegName.number]) hro
    | pa | pb | len | cap | pidx | vmin | vmax | padb | ew | hdr =>
      exact absurd (by simp [ReadWrite, RegName.number]) hrw

/-! ### The step -/

/-- A step of an idle SFCU with a host operation to perform performs it. -/
theorem step_of_idle {s : State} {op : HostOp} {rest : List HostOp} (hhost : s.host = op :: rest)
    (hidle : s.busy = false) : step s = hostOp op { s with host := rest } := by
  simp [step, hostStep, hhost, hidle]

theorem step_writeReg {s : State} {rest : List HostOp} {n : RegNum} {v : Word}
    (hhost : s.host = .writeReg n v :: rest) (hidle : s.busy = false) (hcmd : n ≠ 0x100) :
    step s = .next (({ s with host := rest } : State).writeRegister n v) := by
  rw [step_of_idle hhost hidle]
  exact if_neg hcmd

/-- What `readRegister` returns does not depend on the program. -/
theorem State.readRegister_withHost (s : State) (rest : List HostOp) (n : RegNum) :
    ({ s with host := rest } : State).readRegister n = s.readRegister n := rfl

theorem step_readReg {s : State} {rest : List HostOp} {n : RegNum} (hhost : s.host = .readReg n :: rest)
    (hidle : s.busy = false) :
    step s = .next { s with host := rest, answers := s.readRegister n :: s.answers } := by
  rw [step_of_idle hhost hidle, hostOp, State.readRegister_withHost, State.answer]

/-! ### The reset state -/

/-- R44: what each register reads after reset. -/
theorem State.readRegister_reset (x : RegName) : State.reset.readRegister x.number = if x = .ew then 1 else 0 := by
  cases x with
  | r i => simp [State.reg, State.reset, Vector.get_eq_getElem]
  | c i =>
    have hi : i.toNat < 64 := i.isLt
    simp [State.coord, State.reset, hi, Vector.get_eq_getElem]
  | _ => rfl

/-! ### The two statements -/

/-- Settles O13: the step performs the host operation, and `readRegister_writeRegister` says what a write of a read-write
number leaves behind. -/
theorem hostRegisterAccess : Obligations.HostRegisterAccess := by
  unfold Obligations.HostRegisterAccess
  refine ⟨fun s rest n v hhost hidle hcmd => ⟨fun hrw => ?_, fun hrw => ?_⟩,
    fun s n hrw hro => s.readRegister_of_not_readable hrw hro, fun s rest n => step_readReg⟩
  · refine ⟨_, step_writeReg hhost hidle hcmd, State.sameMemory_writeRegister { s with host := rest } n v,
      State.writeRegister_host .., fun m => ?_⟩
    rw [State.readRegister_writeRegister _ v m hrw, State.readRegister_withHost]
  · rw [step_writeReg hhost hidle hcmd, State.writeRegister_of_not_readWrite _ v hrw]

/-- Settles O11: register by register for the numbers of the table, 0 for the others; no byte of `MEM` is listed, so each
reads as a draw of the free value. -/
theorem resetValues : Obligations.ResetValues := by
  unfold Obligations.ResetValues
  refine ⟨fun n => ?_, fun d a => ⟨drawIndex d a, rfl⟩⟩
  obtain hnone | ⟨x, rfl⟩ := regName_none_or_number n
  · have hn : n ≠ 0x11A := fun e => by rw [e] at hnone; cases hnone
    rw [if_neg hn, State.readRegister_of_none _ hnone]
  · have hew : x.number = 0x11A ↔ x = .ew := RegName.number_injective.eq_iff (b := .ew)
    simp only [hew, State.readRegister_reset]

end Sys2Proof.Machine

/-! PROOFS. The common checks of a bulk command (20_memory.md R66): the checks a command runs, written from its tables,
that each bulk command runs them before anything else, and the statement that follows from it. -/

namespace Sys2Proof.Machine

/-! ### The checks of a command -/

/-- Step 1 of R66, for a command that uses `EW`. -/
def ewCheck (i : Instr) (s : State) : Except Raised Unit := if usesEw i then s.checkEw else pure ()

/-- Steps 2 and 3 of R66, for a command with an input region. -/
def inputCheck (i : Instr) (s : State) : Except Raised Unit :=
  match inputBytes i s with
  | some n => do
    s.checkLen
    s.checkIn n
  | none => pure ()

/-- Step 5 of R66, for a command with an input region. -/
def overlapCheck (i : Instr) (s : State) : Except Raised Unit :=
  match inputBytes i s with
  | some n => s.checkOverlap n
  | none => pure ()

/-- Steps 4 and 5 of R66, for a command with an output region. -/
def outputCheck (i : Instr) (s : State) : Except Raised Unit :=
  if hasOutput i then do
    s.checkOut
    overlapCheck i s
  else pure ()

/-- The checks that R66 gives the command, in their order. Each bulk command writes out its own; that these are the same
is `exec_eq_finishBulk` for a command with an output region and `exec_of_commonChecks_error` for every command. -/
def commonChecks (i : Instr) (s : State) : Except Raised Unit := do
  ewCheck i s
  inputCheck i s
  outputCheck i s

section
variable {i : Instr} {s : State} {n : Nat} {e : Raised}

/-! ### Which checks pass, and what the others raise -/

theorem ewCheck_ok : ewCheck i s = .ok () ↔ (usesEw i = true → s.EwLegal) := by
  unfold ewCheck
  split_ifs with h
  · simp [h, State.checkEw_ok]
  · simp [h, pure, Except.pure]

theorem inputCheck_of_some (hin : inputBytes i s = some n) :
    inputCheck i s = (s.checkLen >>= fun _ => s.checkIn n) := by
  simp only [inputCheck, hin]

theorem overlapCheck_of_some (hin : inputBytes i s = some n) : overlapCheck i s = s.checkOverlap n := by
  simp only [overlapCheck, hin]

theorem outputCheck_of_hasOutput (hout : hasOutput i = true) :
    outputCheck i s = (s.checkOut >>= fun _ => overlapCheck i s) := if_pos hout

theorem inputCheck_ok : inputCheck i s = .ok () ↔ ∀ n, inputBytes i s = some n → s.InputReady n := by
  cases hin : inputBytes i s with
  | none => simp [inputCheck, hin, pure, Except.pure]
  | some n =>
    rw [inputCheck_of_some hin, bind_unit_ok, State.checkLen_ok, State.checkIn_ok]
    simp [State.InputReady]

/-- An illegal `EW` is raised before anything else. -/
theorem commonChecks_of_ewIllegal (huse : usesEw i = true) (hew : ¬ s.EwLegal) :
    commonChecks i s = .error ⟨.eEw, s.ew.toNat⟩ := by
  rw [commonChecks, ewCheck, if_pos huse, State.checkEw_error hew]; rfl

/-- Past step 1, the first fault of steps 2 and 3 is the one raised. -/
theorem commonChecks_of_inputCheck_error (hew : usesEw i = true → s.EwLegal) (h : inputCheck i s = .error e) :
    commonChecks i s = .error e := by
  rw [commonChecks, ewCheck_ok.mpr hew, h]; rfl

/-- Past steps 1 to 3, what steps 4 and 5 give. -/
theorem commonChecks_of_inputReady (hew : usesEw i = true → s.EwLegal)
    (hin : ∀ n, inputBytes i s = some n → s.InputReady n) : commonChecks i s = outputCheck i s := by
  rw [commonChecks, ewCheck_ok.mpr hew, inputCheck_ok.mpr hin]; rfl

theorem inputCheck_of_len (hin : inputBytes i s = some n) (hlen : s.cfg.maxElems < s.len.toNat) :
    inputCheck i s = .error ⟨.eResource, s.len.toNat⟩ := by
  rw [inputCheck_of_some hin, State.checkLen_error hlen]; rfl

theorem inputCheck_of_range (hin : inputBytes i s = some n) (hlen : s.len.toNat ≤ s.cfg.maxElems)
    (hpa : s.cfg.memSz < s.pa.toNat + n) : inputCheck i s = .error ⟨.eMemRange, s.pa.toNat⟩ := by
  rw [inputCheck_of_some hin, State.checkLen_ok.mpr hlen, State.checkIn_error hpa]; rfl

theorem outputCheck_of_range (hout : hasOutput i = true) (hpb : ¬ s.OutputReady) :
    outputCheck i s = .error ⟨.eMemRange, s.pb.toNat⟩ := by
  rw [outputCheck_of_hasOutput hout, State.checkOut_error hpb]; rfl

theorem outputCheck_of_overlap (hout : hasOutput i = true) (hpb : s.OutputReady) (hin : inputBytes i s = some n)
    (hover : ¬ s.Disjoint n) : outputCheck i s = .error ⟨.eMemOverlap, s.pb.toNat⟩ := by
  rw [outputCheck_of_hasOutput hout, State.checkOut_ok.mpr hpb, overlapCheck_of_some hin,
    State.checkOverlap_error hover]; rfl

/-! ### The checks that the meanings write out -/

theorem commonChecks_eq_typed (huse : usesEw i = true) (hin : inputBytes i s = some n) (hout : hasOutput i = true) :
    commonChecks i s = s.typedChecks n := by
  simp [commonChecks, ewCheck, huse, inputCheck_of_some hin, outputCheck_of_hasOutput hout,
    overlapCheck_of_some hin, State.typedChecks]

theorem commonChecks_eq_byte (huse : usesEw i = false) (hin : inputBytes i s = some n) (hout : hasOutput i = true) :
    commonChecks i s = s.byteChecks n := by
  simp [commonChecks, ewCheck, huse, inputCheck_of_some hin, outputCheck_of_hasOutput hout,
    overlapCheck_of_some hin, State.byteChecks]

theorem commonChecks_hdrp : commonChecks .hdrp s = s.checkOut :=
  bind_pure s.checkOut

theorem commonChecks_reordi (src dst : SlotId) : commonChecks (.reordi src dst) s =
    (s.checkEw >>= fun _ => s.checkLen >>= fun _ => s.checkIn s.typedBytes) :=
  congrArg (s.checkEw >>= ·) (funext fun _ => bind_pure _)

theorem commonChecks_hdru : commonChecks .hdru s = (s.checkLen >>= fun _ => s.checkIn s.len.toNat) :=
  bind_pure (s.checkLen >>= fun _ => s.checkIn s.len.toNat)

/-- A legal codec field names a codec (30_encoding.md R95). -/
theorem exists_codecOf_of_codecLegal (codec : BitVec 3) (h : codecLegal codec = true) :
    ∃ c, codecOf codec = some c := by
  have hall : ∀ k : BitVec 3, codecLegal k = true → (codecOf k).isSome = true := by decide
  exact Option.isSome_iff_exists.mp (hall codec h)

/-! ### A command that fails a common check -/

theorem State.finishBulk_commonChecks_typed {o : Host.Outcome State Fault Refusal}
    {result : Unit → Except Raised BulkResult} (h : o = s.finishBulk (s.typedChecks n) result)
    (huse : usesEw i = true) (hin : inputBytes i s = some n) (hout : hasOutput i = true) :
    ∃ result, o = s.finishBulk (commonChecks i s) result :=
  ⟨result, commonChecks_eq_typed huse hin hout ▸ h⟩

theorem State.finishBulk_commonChecks_byte {o : Host.Outcome State Fault Refusal}
    {result : Unit → Except Raised BulkResult} (h : o = s.finishBulk (s.byteChecks n) result)
    (huse : usesEw i = false) (hin : inputBytes i s = some n) (hout : hasOutput i = true) :
    ∃ result, o = s.finishBulk (commonChecks i s) result :=
  ⟨result, commonChecks_eq_byte huse hin hout ▸ h⟩

theorem exec_blkc {bwt mtf : Bool} {codec : BitVec 3} {c : Codec} (h : codecOf codec = some c) :
    exec (.blkc bwt mtf codec) s = s.finishBulk (s.typedChecks s.typedBytes)
      (fun _ => blockCompress bwt mtf c s.cfg.mtfAmax s.cfg.hufMaxlen s.ew.toNat s.inElems) := by
  simp only [exec, execBlkc, h]

theorem exec_blkd {bwt mtf : Bool} {codec : BitVec 3} {c : Codec} (h : codecOf codec = some c) :
    exec (.blkd bwt mtf codec) s = s.finishBulk (s.typedChecks s.len.toNat)
      (fun _ => blockExpand bwt mtf c s.cfg.mtfAmax s.cfg.hufMaxlen s.ew.toNat s.inBytes) := by
  simp only [exec, execBlkd, h]

/-- Every command with an output region runs its common checks and then computes a result (R66, R67). -/
theorem exec_eq_finishBulk (hwf : i.wellFormed = true) (hout : hasOutput i = true) :
    ∃ result, exec i s = s.finishBulk (commonChecks i s) result := by
  cases i with
  | bwtf | bwti | mtfe | mtfd | rlee | rled =>
    unfold exec
    exact State.finishBulk_commonChecks_typed rfl rfl rfl rfl
  | hufe | hufd | lzwe | lzwd =>
    unfold exec
    exact State.finishBulk_commonChecks_byte rfl rfl rfl rfl
  | hdrp =>
    rw [commonChecks_hdrp]
    unfold exec
    exact ⟨_, rfl⟩
  | blkc bwt mtf codec =>
    obtain ⟨c, hc⟩ := exists_codecOf_of_codecLegal codec hwf
    exact State.finishBulk_commonChecks_typed (exec_blkc hc) rfl rfl rfl
  | blkd bwt mtf codec =>
    obtain ⟨c, hc⟩ := exists_codecOf_of_codecLegal codec hwf
    exact State.finishBulk_commonChecks_typed (exec_blkd hc) rfl rfl rfl
  | _ => cases hout

/-- The reorder commands run their common checks before they look at the slots (R202). -/
theorem State.reorderChecks_of_commonChecks_error {src dst : SlotId} (h : commonChecks (.reordi src dst) s = .error e) :
    s.reorderChecks src dst = .error e := by
  have hbind : ∃ rest, s.reorderChecks src dst = (commonChecks (.reordi src dst) s >>= rest) := by
    simp only [commonChecks_reordi, bind_assoc]
    exact ⟨_, rfl⟩
  obtain ⟨rest, hrest⟩ := hbind
  rw [hrest, h]; rfl

/-- `HDRU` runs its common checks before it reads the header (R346). -/
theorem exec_hdru_of_commonChecks_error (h : commonChecks .hdru s = .error e) :
    exec .hdru s = .next (s.raise e) := by
  have hread : (s.checkLen >>= fun _ => s.checkIn s.len.toNat >>= fun _ =>
      hdrParse s.len.toNat (s.readBytes s.pa.toNat (min s.len.toNat 10))) = .error e := by
    rw [← bind_assoc, ← commonChecks_hdru, h]; rfl
  simp only [exec, execHdru, hread, State.trap]

/-- A command that fails a common check raises the first that fails and changes nothing but the fault record. -/
theorem exec_of_commonChecks_error (hwf : i.wellFormed = true) (h : commonChecks i s = .error e) :
    exec i s = .next (s.raise e) := by
  by_cases hout : hasOutput i = true
  · obtain ⟨result, hexec⟩ := exec_eq_finishBulk (s := s) hwf hout
    rw [hexec, State.finishBulk_check h]
  · cases i with
    | reordi src dst =>
      simp only [exec, execReordi, State.reorderChecks_of_commonChecks_error h]; rfl
    | reordt src dst =>
      have h' : commonChecks (.reordi src dst) s = .error e := h
      simp only [exec, execReordt, State.reorderChecks_of_commonChecks_error h']; rfl
    | hdru => exact exec_hdru_of_commonChecks_error h
    | nop | clrerr | csetup | cclone | isetup | expand | remove | c2d | d2c => cases h
    | _ => exact absurd rfl hout

theorem exec_trapped_of_commonChecks_error (hwf : i.wellFormed = true) (h : commonChecks i s = .error e) :
    ∃ t, exec i s = .next t ∧ Trapped s t e :=
  ⟨s.raise e, exec_of_commonChecks_error hwf h, s.trapped e⟩

end

/-! ### The statement -/

/-- Settles O17: each clause names the first of the command's common checks that fails, and a command whose common checks
fail raises that fault. -/
theorem commonChecksInOrder : Obligations.CommonChecksInOrder := by
  unfold Obligations.CommonChecksInOrder
  refine fun i s hwf => ⟨fun huse hew => ?_, fun hew n hin => ⟨fun hlen => ?_, fun hlen hpa => ?_⟩,
    fun hew hout hready => ⟨fun hpb => ?_, fun hpb n hin hover => ?_⟩⟩ <;>
    apply exec_trapped_of_commonChecks_error hwf
  · exact commonChecks_of_ewIllegal huse hew
  · exact commonChecks_of_inputCheck_error hew (inputCheck_of_len hin hlen)
  · exact commonChecks_of_inputCheck_error hew (inputCheck_of_range hin hlen hpa)
  · rw [commonChecks_of_inputReady hew hready, outputCheck_of_range hout hpb]
  · rw [commonChecks_of_inputReady hew hready, outputCheck_of_overlap hout hpb hin hover]

end Sys2Proof.Machine

/-! PROOFS. Acceptance of a command word (40_system.md R121): a word that decodes is legal (30_encoding.md R93, R96),
every command ends, and what an issue does to an idle SFCU. -/

namespace Sys2Proof.Machine

/-! ### A word that decodes matches a row of the table -/

/-- Two words agree when their fields do, and a mask acts on each field alone: a word matches a row (whose match is its
opcode) field by field. -/
theorem and_eq_pack {w mask : CmdWord} {opc : BitVec 8} (htop : fieldTop w = 0)
    (hopc : fieldOpc w &&& fieldOpc mask = opc) (hrd : fieldRd w &&& fieldRd mask = 0)
    (hrs1 : fieldRs1 w &&& fieldRs1 mask = 0) (hrs2 : fieldRs2 w &&& fieldRs2 mask = 0)
    (himm : fieldImm8 w &&& fieldImm8 mask = 0) : w &&& mask = pack opc 0 0 0 0 := by
  have htopMask : fieldTop (w &&& mask) = 0 := by
    rw [fieldTop, BitVec.extractLsb'_and, ← fieldTop, htop]
    exact BitVec.zero_and
  rw [← pack_fields _ htopMask, fieldOpc, fieldRd, fieldRs1, fieldRs2, fieldImm8]
  simp only [BitVec.extractLsb'_and]
  exact congr (congr (congr (congr (congrArg pack hopc) hrd) hrs1) hrs2) himm

/-- The codec field of a word is bits 4:2 of its `imm8` (R93). -/
theorem extractLsb'_codec (w : CmdWord) : w.extractLsb' 22 3 = (fieldImm8 w).extractLsb' 2 3 := by
  apply BitVec.eq_of_getLsbD_eq
  intro j hj
  have himm : 2 + j < 8 := by omega
  simp [fieldImm8, hj, himm, ← Nat.add_assoc]

theorem codecLegal_iff (codec : BitVec 3) :
    codecLegal codec = true ↔ codec = 0 ∨ codec = 1 ∨ codec = 2 ∨ codec = 5 := by
  simp [codecLegal, or_assoc]

theorem fieldOpc_mask_of_mem : ∀ row ∈ opcodeRows, fieldOpc row.2 = 0xFF := by
  simp [opcodeRows, fieldOpc]

theorem and_eq_zero_of_eq_zero {n : Nat} {x : BitVec n} (h : x = 0) (y : BitVec n) : x &&& y = 0 := by
  rw [h]
  exact BitVec.zero_and

/-- An `imm8` whose bits from `k` on are 0 has nothing in common with the mask of those bits. -/
theorem and_highMask_eq_zero {imm8 : BitVec 8} {k : Nat} (h : imm8.extractLsb' k (8 - k) = 0) :
    imm8 &&& (BitVec.allOnes 8 <<< k) = 0 := by
  apply BitVec.eq_of_getLsbD_eq
  intro j hj
  by_cases hjk : j < k
  · simp [hjk]
  · have hbit : (imm8.extractLsb' k (8 - k)).getLsbD (j - k) = false := by rw [h]; simp
    have hlt : j - k < 8 - k := by omega
    have hpos : k + (j - k) = j := by omega
    simp only [BitVec.getLsbD_extractLsb', hlt, decide_true, Bool.true_and, hpos] at hbit
    simp [hbit]

section
variable {w mask : CmdWord} {opc : BitVec 8} {i : Instr}

/-- A word is legal when its opcode is that of a row and its fields are 0 where the row's mask is 1. -/
theorem legalWord_of_fields (hrow : (pack opc 0 0 0 0, mask) ∈ opcodeRows) (htop : fieldTop w = 0)
    (hopc : fieldOpc w = opc) (hrd : fieldRd w &&& fieldRd mask = 0) (hrs1 : fieldRs1 w &&& fieldRs1 mask = 0)
    (hrs2 : fieldRs2 w &&& fieldRs2 mask = 0) (himm : fieldImm8 w &&& fieldImm8 mask = 0)
    (hcodec : opc = 0x62 ∨ opc = 0x63 → codecLegal ((fieldImm8 w).extractLsb' 2 3) = true) : LegalWord w := by
  have hopcMask : fieldOpc w &&& fieldOpc mask = opc := by
    rw [fieldOpc_mask_of_mem _ hrow, hopc]
    exact BitVec.and_allOnes
  refine ⟨_, hrow, and_eq_pack htop hopcMask hrd hrs1 hrs2 himm, fun hm => ?_⟩
  rw [extractLsb'_codec]
  refine (codecLegal_iff _).mp (hcodec (hm.imp ?_ ?_)) <;>
    exact fun h => (fieldOpc_pack opc 0 0 0 0).symm.trans (congrArg fieldOpc h)

/-- The row of a command that uses no field. -/
theorem legalWord_of_decodePlain_ok {j : Instr} (htop : fieldTop w = 0) (hopc : fieldOpc w = opc)
    (hrow : (pack opc 0 0 0 0, 0xFFFFFFFF) ∈ opcodeRows) (h : decodePlain j w = .ok i) : LegalWord w := by
  unfold decodePlain at h
  split_ifs at h with hfields
  obtain ⟨hrd, hrs1, hrs2, himm⟩ := hfields
  exact legalWord_of_fields hrow htop hopc (and_eq_zero_of_eq_zero hrd _) (and_eq_zero_of_eq_zero hrs1 _)
    (and_eq_zero_of_eq_zero hrs2 _) (and_eq_zero_of_eq_zero himm _) fun _ => by rw [himm]; decide

/-- The row of a command that uses two slot bits. -/
theorem legalWord_of_decodeTwoSlots_ok {mk : SlotId → SlotId → Instr} (htop : fieldTop w = 0)
    (hopc : fieldOpc w = opc) (hrow : (pack opc 0 0 0 0, 0xFFCFFFFF) ∈ opcodeRows)
    (hcodec : ¬ (opc = 0x62 ∨ opc = 0x63)) (h : decodeTwoSlots mk w = .ok i) : LegalWord w := by
  unfold decodeTwoSlots at h
  split_ifs at h with hfields himm
  obtain ⟨hrd, hrs1, hrs2⟩ := hfields
  exact legalWord_of_fields hrow htop hopc (and_eq_zero_of_eq_zero hrd _) (and_eq_zero_of_eq_zero hrs1 _)
    (and_eq_zero_of_eq_zero hrs2 _) (and_highMask_eq_zero (k := 2) (not_not.mp himm))
    fun hblock => absurd hblock hcodec

/-- The row of a block command. -/
theorem legalWord_of_decodeBlock_ok {mk : Bool → Bool → BitVec 3 → Instr} (htop : fieldTop w = 0)
    (hopc : fieldOpc w = opc) (hrow : (pack opc 0 0 0 0, 0xFE0FFFFF) ∈ opcodeRows)
    (h : decodeBlock mk w = .ok i) : LegalWord w := by
  unfold decodeBlock at h
  split_ifs at h with hfields himm hcodec
  obtain ⟨hrd, hrs1, hrs2⟩ := hfields
  exact legalWord_of_fields hrow htop hopc (and_eq_zero_of_eq_zero hrd _) (and_eq_zero_of_eq_zero hrs1 _)
    (and_eq_zero_of_eq_zero hrs2 _) (and_highMask_eq_zero (k := 5) (not_not.mp himm))
    fun _ => Bool.of_not_eq_false hcodec

/-- Every row of the decoder is a row of the table: the shared forms by their lemmas, the others field by field. -/
theorem legalWord_of_decodeRow_ok (htop : fieldTop w = 0) (h : decodeRow w = .ok i) : LegalWord w := by
  unfold decodeRow at h
  split at h
  case h_3 hopc =>
    split_ifs at h with hrd himm
    exact legalWord_of_fields (mask := 0xFF000FFF) (by decide) htop hopc (and_eq_zero_of_eq_zero (not_not.mp hrd) _)
      BitVec.and_zero BitVec.and_zero (and_highMask_eq_zero (k := 4) (not_not.mp himm)) (absurd · (by decide))
  case h_5 hopc =>
    split_ifs at h with hfields
    obtain ⟨hrd, himm⟩ := hfields
    exact legalWord_of_fields (mask := 0xFFF00FFF) (by decide) htop hopc (and_eq_zero_of_eq_zero hrd _)
      BitVec.and_zero BitVec.and_zero (and_eq_zero_of_eq_zero himm _) (absurd · (by decide))
  case h_6 hopc | h_7 hopc =>
    split_ifs at h with hrs2
    exact legalWord_of_fields (mask := 0xF00F00FF) (by decide) htop hopc BitVec.and_zero BitVec.and_zero
      (and_eq_zero_of_eq_zero (not_not.mp hrs2) _) BitVec.and_zero (absurd · (by decide))
  case h_8 hopc =>
    split_ifs at h with hfields himm
    obtain ⟨hrs1, hrs2⟩ := hfields
    exact legalWord_of_fields (mask := 0xFFEFF0FF) (by decide) htop hopc BitVec.and_zero
      (and_eq_zero_of_eq_zero hrs1 _) (and_eq_zero_of_eq_zero hrs2 _)
      (and_highMask_eq_zero (k := 1) (not_not.mp himm)) (absurd · (by decide))
  case h_9 hopc =>
    split_ifs at h with hfields himm
    obtain ⟨hrd, hrs2⟩ := hfields
    exact legalWord_of_fields (mask := 0xFFEF0FFF) (by decide) htop hopc (and_eq_zero_of_eq_zero hrd _)
      BitVec.and_zero (and_eq_zero_of_eq_zero hrs2 _) (and_highMask_eq_zero (k := 1) (not_not.mp himm))
      (absurd · (by decide))
  case h_4 hopc | h_10 hopc | h_11 hopc =>
    exact legalWord_of_decodeTwoSlots_ok htop hopc (by decide) (by decide) h
  case h_24 hopc | h_25 hopc => exact legalWord_of_decodeBlock_ok htop hopc (by decide) h
  case h_26 => cases h
  all_goals exact legalWord_of_decodePlain_ok htop ‹fieldOpc w = _› (by decide) h

/-- A word that decodes is legal (R96). -/
theorem legalWord_of_decode_ok (h : decode w = .ok i) : LegalWord w := by
  unfold decode at h
  split_ifs at h with htop
  exact legalWord_of_decodeRow_ok (not_not.mp htop) h

end

/-! ### Every command ends -/

/-- A bulk command ends. -/
theorem State.finishBulk_next (s : State) (checks : Except Raised Unit) (result : Unit → Except Raised BulkResult) :
    ∃ t, s.finishBulk checks result = .next t := by
  obtain ⟨e, -, h⟩ | ⟨-, e, -, h⟩ | ⟨-, b, -, -, h⟩ :=
    State.finishBulk_cases (s := s) (checks := checks) (result := result) rfl
  exacts [⟨_, h⟩, ⟨_, h⟩, ⟨_, h⟩]

/-- A reorder command ends. -/
theorem State.finishReorder_next (s : State) (result : Except Raised (List Nat)) :
    ∃ t, s.finishReorder result = .next t := by
  obtain ⟨e, -, h⟩ | ⟨xs, -, h⟩ := State.finishReorder_cases (s := s) (result := result) rfl
  exacts [⟨_, h⟩, ⟨_, h⟩]

/-- Every command ends, at every state: it is never held off and never refused (R122). -/
theorem exec_next (i : Instr) (s : State) : ∃ t, exec i s = .next t := by
  cases i with
  | nop | clrerr => exact ⟨_, rfl⟩
  | csetup | cclone | isetup | expand | remove | hdru =>
    simp only [exec, execCsetup, execCclone, execIsetup, execExpand, execRemove, execHdru]
    split <;> exact ⟨_, rfl⟩
  | c2d | d2c =>
    simp only [exec, execC2d, execD2c]
    split
    · exact ⟨_, rfl⟩
    · split <;> exact ⟨_, rfl⟩
  | reordi | reordt => exact State.finishReorder_next ..
  | bwtf | bwti | mtfe | mtfd | hufe | hufd | lzwe | lzwd | rlee | rled | hdrp =>
    unfold exec
    exact State.finishBulk_next ..
  | blkc | blkd =>
    simp only [exec, execBlkc, execBlkd]
    split
    · exact ⟨_, rfl⟩
    · exact State.finishBulk_next ..

/-! ### Issuing a word -/

/-- Both ways of issuing `w` do to an idle SFCU what `issue` does to it (R120, 10_state.md R27). -/
theorem step_of_issues {s : State} {op : HostOp} {rest : List HostOp} {w : CmdWord} (hhost : s.host = op :: rest)
    (hissues : Issues op w) (hidle : s.busy = false) : step s = issue w { s with host := rest } := by
  rw [step_of_idle hhost hidle]
  obtain rfl | ⟨v, rfl, rfl⟩ := hissues
  · rfl
  · simp [hostOp, hostWriteReg]

/-- While a fault is recorded, the word of `CLRERR` clears it. -/
theorem issue_clrerr {s : State} (herr : s.err = true) (hidle : s.busy = false) :
    issue 0x00000001 s = .next s.clearErr := by
  have haccept : issue 0x00000001 s = accept .clrerr s := by simp [issue, herr]
  rw [haccept, accept_next rfl, State.clearErr, State.clearErr, ← hidle]

/-- While a fault is recorded, every other word is dropped. -/
theorem issue_dropped {s : State} {w : CmdWord} (herr : s.err = true) (hw : w ≠ 0x00000001) : issue w s = .next s :=
  (if_pos herr).trans (if_neg hw)

/-- A word that is not legal raises `E_CMD`, for it does not decode. -/
theorem issue_illegal {s : State} {w : CmdWord} (herr : s.err = false) (hw : ¬ LegalWord w) :
    issue w s = .next (s.raise ⟨.eCmd, w.toNat⟩) := by
  cases hd : decode w with
  | error e => simp [issue, herr, hd, State.trap]
  | ok i => exact absurd (legalWord_of_decode_ok hd) hw

/-- A word that decodes is accepted. -/
theorem issue_of_decode_ok {s : State} {w : CmdWord} {i : Instr} (herr : s.err = false) (hd : decode w = .ok i) :
    issue w s = accept i s := by
  simp [issue, herr, hd]

/-! ### The statement -/

/-- Settles O7: either way of issuing a word is `issue`, whose four cases are the four clauses. -/
theorem commandAcceptance : Obligations.CommandAcceptance := by
  unfold Obligations.CommandAcceptance
  intro s op rest w hhost hissues hidle
  rw [step_of_issues hhost hissues hidle]
  refine ⟨fun herr hw => ?clrerr, fun herr hw => ?dropped, fun herr hw => ?illegal, fun herr i hd => ?accepted⟩
  case clrerr =>
    subst hw
    exact issue_clrerr herr hidle
  case dropped => exact issue_dropped herr hw
  case illegal => exact ⟨_, issue_illegal herr hw, State.trapped _ _⟩
  case accepted =>
    obtain ⟨t, ht⟩ := exec_next i { s with host := rest, busy := true }
    have hissue : issue w { s with host := rest } = accept i { s with host := rest } := issue_of_decode_ok herr hd
    exact ⟨t, ht, hissue.trans (accept_next ht)⟩

end Sys2Proof.Machine

/-! PROOFS. The four curves (41_curve.md R140, R171): what each pair of conversions computes (digits in base `L`, bits
of the interleaved word, the Gray fold as a product of shifts, one quadrant of the Hilbert curve at a time), and that
the two are inverse to each other. -/

namespace Sys2Proof.Machine

/-- A conversion pair on the distances below `L^N` and the `N`-tuples of coordinates below `L`: each is inside its range
and undoes the other (R171). -/
def InverseConversions (enc : List Nat → Nat) (dec : Nat → List Nat) (n l : Nat) : Prop :=
  (∀ d < l ^ n, (dec d).length = n ∧ (∀ x ∈ dec d, x < l) ∧ enc (dec d) = d)
    ∧ ∀ xs : List Nat, xs.length = n → (∀ x ∈ xs, x < l) → enc xs < l ^ n ∧ dec (enc xs) = xs

/-! ### Row-major: the digits in base `L` (R152) -/

theorem rowMajorDistFrom_eq_ofDigits (l : Nat) (xs : List Nat) (i : Nat) :
    rowMajorDistFrom l i xs = l ^ i * Nat.ofDigits l xs := by
  induction xs generalizing i with
  | nil => rfl
  | cons x xs ih => rw [rowMajorDistFrom, ih, Nat.ofDigits_cons, pow_succ]; ring

theorem rowMajorDist_eq_ofDigits (xs : List Nat) (l : Nat) : rowMajorDist xs l = Nat.ofDigits l xs := by
  rw [rowMajorDist, rowMajorDistFrom_eq_ofDigits, pow_zero, one_mul]

theorem ofDigits_eq_sum_range (xs : List Nat) (l : Nat) :
    Nat.ofDigits l xs = ∑ i ∈ Finset.range xs.length, xs.getD i 0 * l ^ i := by
  induction xs with
  | nil => rfl
  | cons x xs ih =>
    have hterm : ∀ i, (x :: xs).getD (i + 1) 0 * l ^ (i + 1) = l * (xs.getD i 0 * l ^ i) := fun i => by
      rw [List.getD_cons_succ, pow_succ]; ring
    rw [Nat.ofDigits_cons, ih, List.length_cons, Finset.sum_range_succ', Finset.mul_sum]
    simp only [hterm, List.getD_cons_zero, pow_zero, mul_one]
    exact Nat.add_comm _ _

@[simp] theorem length_rowMajorCoords (d n l : Nat) : (rowMajorCoords d n l).length = n := by
  simp [rowMajorCoords]

theorem getElem?_rowMajorCoords (d l : Nat) {n i : Nat} (hi : i < n) :
    (rowMajorCoords d n l)[i]? = some (d / l ^ i % l) := by
  simp [rowMajorCoords, hi]

/-- The first coordinate is the lowest digit, the others are those of the quotient. -/
theorem rowMajorCoords_succ (d n l : Nat) : rowMajorCoords d (n + 1) l = d % l :: rowMajorCoords (d / l) n l := by
  simp [rowMajorCoords, List.range_succ_eq_map, Nat.div_div_eq_div_mul, pow_succ']

theorem ofDigits_rowMajorCoords (n l : Nat) (d : Nat) : Nat.ofDigits l (rowMajorCoords d n l) = d % l ^ n := by
  induction n generalizing d with
  | zero => simp [rowMajorCoords, Nat.mod_one]
  | succ n ih => rw [rowMajorCoords_succ, Nat.ofDigits_cons, ih, pow_succ', Nat.mod_mul]

theorem rowMajorCoords_ofDigits {l : Nat} (xs : List Nat) (hxs : ∀ x ∈ xs, x < l) :
    rowMajorCoords (Nat.ofDigits l xs) xs.length l = xs := by
  induction xs with
  | nil => rfl
  | cons x xs ih =>
    obtain ⟨hx, hxs⟩ := List.forall_mem_cons.mp hxs
    have hcons : Nat.ofDigits l (x :: xs) = x + l * Nat.ofDigits l xs := Nat.ofDigits_cons
    have hmod : (x + l * Nat.ofDigits l xs) % l = x := by rw [Nat.add_mul_mod_self_left, Nat.mod_eq_of_lt hx]
    have hdiv : (x + l * Nat.ofDigits l xs) / l = Nat.ofDigits l xs := by
      rw [Nat.add_mul_div_left _ _ (by omega), Nat.div_eq_of_lt hx, zero_add]
    rw [List.length_cons, hcons, rowMajorCoords_succ, hmod, hdiv, ih hxs]

theorem rowMajor_inverse (n : Nat) {l : Nat} (hl : 1 < l) :
    InverseConversions (fun xs => rowMajorDist xs l) (fun d => rowMajorCoords d n l) n l := by
  simp only [InverseConversions, rowMajorDist_eq_ofDigits]
  refine ⟨fun d hd => ⟨length_rowMajorCoords d n l, fun x hx => ?digit, ?dist⟩, fun xs hlen hxs => ⟨?below, ?coords⟩⟩
  case digit =>
    obtain ⟨i, -, rfl⟩ := List.mem_map.mp hx
    exact Nat.mod_lt _ (by omega)
  case dist => rw [ofDigits_rowMajorCoords, Nat.mod_eq_of_lt hd]
  case below => exact hlen ▸ Nat.ofDigits_lt_base_pow_length hl hxs
  case coords => exact hlen ▸ rowMajorCoords_ofDigits xs hxs

/-- Settles O24: the distance is the value of the coordinates as digits in base `L`. -/
theorem rowMajorFormula : Obligations.RowMajorFormula := by
  unfold Obligations.RowMajorFormula
  refine ⟨fun xs l => ?_, fun d n l => ⟨length_rowMajorCoords d n l, fun i hi => getElem?_rowMajorCoords d l hi⟩,
    by decide, by decide⟩
  exact (rowMajorDist_eq_ofDigits xs l).trans (ofDigits_eq_sum_range xs l)

/-! ### The interleave primitive, bit by bit (R184, R186) -/

theorem bitAt_lt_two (v j : Nat) : bitAt v j < 2 := Bool.toNat_lt _

theorem mul_add_div_of_lt {i n : Nat} (hi : i < n) (j : Nat) : (j * n + i) / n = j := by
  rw [Nat.add_comm, Nat.add_mul_div_right _ _ (by omega), Nat.div_eq_of_lt hi, zero_add]

theorem mul_add_mod_of_lt {i n : Nat} (hi : i < n) (j : Nat) : (j * n + i) % n = i := by
  rw [Nat.mul_add_mod_self_right, Nat.mod_eq_of_lt hi]

theorem bitAt_eq_div_mod (v j : Nat) : bitAt v j = v / 2 ^ j % 2 := Nat.toNat_testBit v j

theorem testBit_bitAt (v j p : Nat) : (bitAt v j).testBit p = (decide (p = 0) && v.testBit j) := by
  rw [bitAt, Nat.testBit_bool_toNat]

/-- A bit added above a number: the number below position `q`, the bit at it, nothing above. -/
theorem testBit_add_bitAt {a q : Nat} (ha : a < 2 ^ q) (v j p : Nat) :
    (a + bitAt v j * 2 ^ q).testBit p = if p < q then a.testBit p else decide (p = q) && v.testBit j := by
  rw [Nat.add_comm, Nat.mul_comm, Nat.testBit_two_pow_mul_add _ ha, testBit_bitAt]
  split
  case isTrue => rfl
  case isFalse hq => simp [show p - q = 0 ↔ p = q by omega]

theorem expand_lt (v : Nat) {i n : Nat} (hi : i < n) (b : Nat) : expand v i n b < 2 ^ (b * n) := by
  induction b with
  | zero => simp [expand]
  | succ b ih =>
    have hbit := bitAt_lt_two v b
    have hpow : 2 ^ (b * n + i) * 2 ≤ 2 ^ ((b + 1) * n) := by
      rw [← pow_succ]; exact Nat.pow_le_pow_right (by omega) (by rw [Nat.succ_mul]; omega)
    have hlow : 2 ^ (b * n) ≤ 2 ^ (b * n + i) := Nat.pow_le_pow_right (by omega) (by omega)
    have hterm : bitAt v b * 2 ^ (b * n + i) ≤ 1 * 2 ^ (b * n + i) := Nat.mul_le_mul_right _ (by omega)
    rw [expand]
    omega

theorem testBit_expand (v : Nat) {i n : Nat} (hi : i < n) (b p : Nat) :
    (expand v i n b).testBit p = (decide (p / n < b) && decide (p % n = i) && v.testBit (p / n)) := by
  induction b with
  | zero => simp [expand]
  | succ b ih =>
    have hlt : expand v i n b < 2 ^ (b * n + i) :=
      (expand_lt v hi b).trans_le (Nat.pow_le_pow_right (by omega) (by omega))
    have hp : p / n * n + p % n = p := Nat.div_add_mod' p n
    have hbelow : p / n < b → p < b * n := (Nat.div_lt_iff_lt_mul (by omega)).mp
    rw [expand, testBit_add_bitAt hlt, ih]
    obtain hoff | hdim := ne_or_eq (p % n) i
    · have hne : p ≠ b * n + i := fun h => hoff (by rw [h, mul_add_mod_of_lt hi])
      simp [hoff, hne]
    · obtain hlow | htop | hhigh := Nat.lt_trichotomy (p / n) b
      · simp [hdim, hlow, Nat.lt_succ_of_lt hlow, show p < b * n + i by have := hbelow hlow; omega]
      · have hpq : p = b * n + i := by rw [htop, hdim] at hp; exact hp.symm
        rw [if_neg (by omega), htop, hdim]
        simp [hpq]
      · have hle : (b + 1) * n ≤ p / n * n := Nat.mul_le_mul_right n hhigh
        rw [Nat.succ_mul] at hle
        simp [show ¬ p / n < b + 1 by omega, show ¬ p < b * n + i by omega, show p ≠ b * n + i by omega]

theorem remove_lt (d i n b : Nat) : remove d i n b < 2 ^ b := by
  induction b with
  | zero => exact Nat.one_pos
  | succ b ih =>
    have hbit := bitAt_lt_two d (b * n + i)
    have hterm : bitAt d (b * n + i) * 2 ^ b ≤ 1 * 2 ^ b := Nat.mul_le_mul_right _ (by omega)
    rw [remove, pow_succ]
    omega

theorem testBit_remove (d i n b j : Nat) :
    (remove d i n b).testBit j = (decide (j < b) && d.testBit (j * n + i)) := by
  induction b with
  | zero => simp [remove]
  | succ b ih =>
    rw [remove, testBit_add_bitAt (remove_lt d i n b), ih]
    obtain hlow | rfl | hhigh := Nat.lt_trichotomy j b
    · simp [hlow, Nat.lt_succ_of_lt hlow]
    · simp
    · simp [show ¬ j < b + 1 by omega, show ¬ j < b by omega, show j ≠ b by omega]

/-! ### Morton (R153) -/

theorem testBit_mortonDistFrom (n b : Nat) (xs : List Nat) (i p : Nat) (hlen : i + xs.length ≤ n) :
    (mortonDistFrom n b i xs).testBit p =
      (decide (p / n < b) && decide (i ≤ p % n) && (xs.getD (p % n - i) 0).testBit (p / n)) := by
  induction xs generalizing i with
  | nil => simp [mortonDistFrom]
  | cons x xs ih =>
    rw [List.length_cons] at hlen
    rw [mortonDistFrom, Nat.testBit_or, testBit_expand x (by omega), ih (i + 1) (by omega)]
    obtain hlt | heq | hgt := Nat.lt_trichotomy (p % n) i
    · simp [show p % n ≠ i by omega, show ¬ i ≤ p % n by omega, show ¬ i + 1 ≤ p % n by omega]
    · simp [heq]
    · obtain ⟨m, hm⟩ : ∃ m, p % n - i = m + 1 := ⟨p % n - i - 1, by omega⟩
      simp [show p % n ≠ i by omega, show i ≤ p % n by omega, show i + 1 ≤ p % n by omega, hm,
        show p % n - (i + 1) = m by omega]

theorem testBit_mortonDist {xs : List Nat} {n : Nat} (hlen : xs.length = n) (b p : Nat) :
    (mortonDist xs n (2 ^ b)).testBit p = (decide (p / n < b) && (xs.getD (p % n) 0).testBit (p / n)) := by
  rw [mortonDist, Nat.log2_two_pow, testBit_mortonDistFrom n b xs 0 p (by omega)]
  simp

theorem mortonCoords_two_pow (d n b : Nat) :
    mortonCoords d n (2 ^ b) = (List.range n).map (fun i => remove d i n b) := by
  rw [mortonCoords, Nat.log2_two_pow]

@[simp] theorem length_mortonCoords (d n l : Nat) : (mortonCoords d n l).length = n := by
  simp [mortonCoords]

theorem getD_mortonCoords (d b : Nat) {n i : Nat} (hi : i < n) :
    (mortonCoords d n (2 ^ b)).getD i 0 = remove d i n b := by
  simp [mortonCoords_two_pow, hi]

theorem mortonCoords_lt {d n b x : Nat} (hx : x ∈ mortonCoords d n (2 ^ b)) : x < 2 ^ b := by
  rw [mortonCoords_two_pow] at hx
  obtain ⟨i, -, rfl⟩ := List.mem_map.mp hx
  exact remove_lt d i n b

theorem mortonDist_lt {xs : List Nat} {n : Nat} (hn : 0 < n) (hlen : xs.length = n) (b : Nat) :
    mortonDist xs n (2 ^ b) < 2 ^ (b * n) := by
  refine Nat.lt_pow_two_of_testBit _ fun p hp => ?_
  have habove : ¬ p / n < b := by rw [Nat.div_lt_iff_lt_mul hn]; omega
  simp [testBit_mortonDist hlen, habove]

theorem mortonDist_mortonCoords {d n b : Nat} (hn : 0 < n) (hd : d < 2 ^ (b * n)) :
    mortonDist (mortonCoords d n (2 ^ b)) n (2 ^ b) = d := by
  refine Nat.eq_of_testBit_eq fun p => ?_
  rw [testBit_mortonDist (length_mortonCoords d n _), getD_mortonCoords d b (Nat.mod_lt p hn), testBit_remove,
    Nat.div_add_mod']
  obtain hin | hout := Nat.lt_or_ge (p / n) b
  · simp [hin]
  · have hp : b * n ≤ p := (Nat.le_div_iff_mul_le hn).mp hout
    have hzero : d.testBit p = false := Nat.testBit_lt_two_pow (hd.trans_le (Nat.pow_le_pow_right (by omega) hp))
    simp [hzero]

theorem remove_mortonDist {xs : List Nat} {n i : Nat} (hlen : xs.length = n) (hi : i < n) (b : Nat) :
    remove (mortonDist xs n (2 ^ b)) i n b = xs.getD i 0 % 2 ^ b := by
  refine Nat.eq_of_testBit_eq fun j => ?_
  rw [testBit_remove, testBit_mortonDist hlen, mul_add_div_of_lt hi, mul_add_mod_of_lt hi,
    Nat.testBit_mod_two_pow, ← Bool.and_assoc, Bool.and_self]

theorem mortonCoords_mortonDist {xs : List Nat} {n b : Nat} (hlen : xs.length = n) (hxs : ∀ x ∈ xs, x < 2 ^ b) :
    mortonCoords (mortonDist xs n (2 ^ b)) n (2 ^ b) = xs := by
  refine List.ext_getElem (by rw [length_mortonCoords, hlen]) fun i hi hi' => ?_
  rw [← List.getD_eq_getElem _ 0 hi, ← List.getD_eq_getElem _ 0 hi', getD_mortonCoords _ _ (hlen ▸ hi'),
    remove_mortonDist hlen (hlen ▸ hi'), List.getD_eq_getElem _ 0 hi', Nat.mod_eq_of_lt (hxs _ (List.getElem_mem hi'))]

theorem morton_inverse {n : Nat} (hn : 0 < n) (b : Nat) :
    InverseConversions (fun xs => mortonDist xs n (2 ^ b)) (fun d => mortonCoords d n (2 ^ b)) n (2 ^ b) := by
  unfold InverseConversions
  rw [← pow_mul]
  exact ⟨fun d hd => ⟨length_mortonCoords d n _, fun x => mortonCoords_lt, mortonDist_mortonCoords hn hd⟩,
    fun xs hlen hxs => ⟨mortonDist_lt hn hlen b, mortonCoords_mortonDist hlen hxs⟩⟩

/-! ### Gray: the fold as a product of shifts (R154, R155) -/

/-- `m XOR (m >> k)`, the factor that the fold (`k` = 1) and the unfolding (`k` = 1, 2, 4, .., 32) are made of. -/
def xorShift (k m : Nat) : Nat := m ^^^ (m >>> k)

theorem grayFold_eq_xorShift (m : Nat) : grayFold m = xorShift 1 m := rfl

theorem grayUnfold_eq_xorShift (g : Nat) :
    grayUnfold g = xorShift 32 (xorShift 16 (xorShift 8 (xorShift 4 (xorShift 2 (xorShift 1 g))))) := rfl

theorem xorShift_comm (j k m : Nat) : xorShift j (xorShift k m) = xorShift k (xorShift j m) := by
  simp only [xorShift, Nat.shiftRight_xor_distrib, ← Nat.shiftRight_add, Nat.add_comm j k]
  ac_rfl

/-- Over GF(2) the factor `1 + X^k` squares to `1 + X^2k`. -/
theorem xorShift_self (k m : Nat) : xorShift k (xorShift k m) = xorShift (k + k) m := by
  simp only [xorShift, Nat.shiftRight_xor_distrib, ← Nat.shiftRight_add]
  rw [Nat.xor_assoc, ← Nat.xor_assoc (m >>> k), Nat.xor_self, Nat.zero_xor]

theorem xorShift_eq_self {k m : Nat} (hm : m < 2 ^ k) : xorShift k m = m := by
  rw [xorShift, Nat.shiftRight_eq_div_pow, Nat.div_eq_of_lt hm, Nat.xor_zero]

theorem xorShift_lt {w m : Nat} (k : Nat) (hm : m < 2 ^ w) : xorShift k m < 2 ^ w :=
  Nat.xor_lt_two_pow hm ((Nat.shiftRight_le m k).trans_lt hm)

theorem grayFold_lt {w m : Nat} (hm : m < 2 ^ w) : grayFold m < 2 ^ w := xorShift_lt 1 hm

theorem grayUnfold_lt {w g : Nat} (hg : g < 2 ^ w) : grayUnfold g < 2 ^ w := by
  rw [grayUnfold_eq_xorShift]
  iterate 6 apply xorShift_lt
  exact hg

/-- The shifts telescope: the fold's shift by 1 doubles at every factor of the unfolding and ends as a shift by 64. -/
theorem grayUnfold_grayFold {m : Nat} (hm : m < 2 ^ 64) : grayUnfold (grayFold m) = m := by
  rw [grayUnfold_eq_xorShift, grayFold_eq_xorShift]
  simp only [xorShift_self, Nat.reduceAdd]
  exact xorShift_eq_self hm

theorem grayFold_grayUnfold {g : Nat} (hg : g < 2 ^ 64) : grayFold (grayUnfold g) = g := by
  have hcomm : grayFold (grayUnfold g) = grayUnfold (grayFold g) := by
    simp only [grayUnfold_eq_xorShift, grayFold_eq_xorShift, xorShift_comm 1]
  rw [hcomm, grayUnfold_grayFold hg]

theorem gray_inverse {n b : Nat} (hn : 0 < n) (hwidth : n * b ≤ 64) :
    InverseConversions (fun xs => grayFold (mortonDist xs n (2 ^ b))) (fun d => mortonCoords (grayUnfold d) n (2 ^ b)) n
      (2 ^ b) := by
  obtain ⟨hdec, henc⟩ := morton_inverse hn b
  have hpow : (2 ^ b) ^ n = 2 ^ (n * b) := by rw [← pow_mul, Nat.mul_comm]
  have hword : ∀ d < 2 ^ (n * b), d < 2 ^ 64 := fun d hd => hd.trans_le (Nat.pow_le_pow_right (by omega) hwidth)
  simp only [InverseConversions, hpow] at hdec henc ⊢
  refine ⟨fun d hd => ?_, fun xs hlen hxs => ?_⟩
  · obtain ⟨hlen, hlt, hdist⟩ := hdec _ (grayUnfold_lt hd)
    exact ⟨hlen, hlt, by rw [hdist, grayFold_grayUnfold (hword d hd)]⟩
  · obtain ⟨hlt, hcoords⟩ := henc xs hlen hxs
    exact ⟨grayFold_lt hlt, by rw [grayUnfold_grayFold (hword _ hlt), hcoords]⟩

/-! ### Hilbert: one quadrant at a time (R156 to R158) -/

theorem hilbertRot_lt {n x y : Nat} (rx ry : Nat) (hx : x < n) (hy : y < n) :
    (hilbertRot n x y rx ry).1 < n ∧ (hilbertRot n x y rx ry).2 < n := by
  unfold hilbertRot
  split_ifs
  · exact ⟨by dsimp only; omega, by dsimp only; omega⟩
  · exact ⟨hy, hx⟩
  · exact ⟨hx, hy⟩

theorem hilbertRot_involutive {n x y : Nat} (rx ry : Nat) (hx : x < n) (hy : y < n) :
    hilbertRot n (hilbertRot n x y rx ry).1 (hilbertRot n x y rx ry).2 rx ry = (x, y) := by
  unfold hilbertRot
  split_ifs
  · exact Prod.ext (by dsimp only; omega) (by dsimp only; omega)
  · rfl
  · rfl

/-- The complement of the low bits is the low bits of the complement. -/
theorem complement_mod_two_pow {k b y : Nat} (hk : k ≤ b) (hy : y < 2 ^ b) :
    (2 ^ b - 1 - y) % 2 ^ k = 2 ^ k - 1 - y % 2 ^ k := by
  have hpos : 0 < 2 ^ k := Nat.two_pow_pos k
  have hmod : y % 2 ^ k < 2 ^ k := Nat.mod_lt y hpos
  have hsplit : 2 ^ k * (y / 2 ^ k) + y % 2 ^ k = y := Nat.div_add_mod y _
  obtain ⟨m, hm⟩ := pow_dvd_pow 2 hk
  have hquot : y / 2 ^ k + 1 ≤ m := Nat.div_lt_of_lt_mul (hm ▸ hy)
  obtain ⟨c, rfl⟩ := Nat.exists_eq_add_of_le hquot
  have hcompl : 2 ^ b - 1 - y = 2 ^ k - 1 - y % 2 ^ k + 2 ^ k * c := by
    rw [Nat.mul_add, Nat.mul_add, Nat.mul_one] at hm
    omega
  rw [hcompl, Nat.add_mul_mod_self_left, Nat.mod_eq_of_lt (by omega)]

/-- The rotation of the whole square, seen in its low `k` bits, is the rotation of a quadrant of side `2^k`. -/
theorem hilbertRot_mod {k b x y : Nat} (rx ry : Nat) (hk : k ≤ b) (hx : x < 2 ^ b) (hy : y < 2 ^ b) :
    hilbertRot (2 ^ k) (x % 2 ^ k) (y % 2 ^ k) rx ry =
      ((hilbertRot (2 ^ b) x y rx ry).1 % 2 ^ k, (hilbertRot (2 ^ b) x y rx ry).2 % 2 ^ k) := by
  unfold hilbertRot
  split_ifs
  · rw [complement_mod_two_pow hk hx, complement_mod_two_pow hk hy]
  · rfl
  · rfl

theorem bitAt_mod_two_pow {j k : Nat} (hj : j < k) (x : Nat) : bitAt (x % 2 ^ k) j = bitAt x j := by
  simp [bitAt, Nat.testBit_mod_two_pow, hj]

/-- The quadrant that a base-4 digit names, by its two bits (R158). -/
def quadrantX (q : Nat) : Nat := q / 2 % 2

/-- The second bit of a quadrant (R158). -/
def quadrantY (q : Nat) : Nat := (q ^^^ quadrantX q) % 2

/-- The base-4 digit of a quadrant (R157). -/
def quadrantDigit (rx ry : Nat) : Nat := (3 * rx) ^^^ ry

theorem quadrantX_lt_two (q : Nat) : quadrantX q < 2 := Nat.mod_lt _ Nat.two_pos

theorem quadrantY_lt_two (q : Nat) : quadrantY q < 2 := Nat.mod_lt _ Nat.two_pos

theorem quadrantDigit_quadrant : ∀ q < 4, quadrantDigit (quadrantX q) (quadrantY q) = q := by decide

theorem quadrant_quadrantDigit : ∀ rx < 2, ∀ ry < 2, quadrantDigit rx ry < 4
    ∧ quadrantX (quadrantDigit rx ry) = rx ∧ quadrantY (quadrantDigit rx ry) = ry := by decide

theorem quadrantX_add_mul_four (t m : Nat) : quadrantX (t + 4 * m) = quadrantX t := by
  unfold quadrantX; omega

theorem quadrantY_add_mul_four (t m : Nat) : quadrantY (t + 4 * m) = quadrantY t := by
  unfold quadrantY
  rw [quadrantX_add_mul_four, Nat.xor_mod_two_eq, Nat.xor_mod_two_eq]
  omega

theorem hilbertDistLoop_succ (l k x y : Nat) :
    hilbertDistLoop l (k + 1) x y = 4 ^ k * quadrantDigit (bitAt x k) (bitAt y k) +
      hilbertDistLoop l k (hilbertRot l x y (bitAt x k) (bitAt y k)).1 (hilbertRot l x y (bitAt x k) (bitAt y k)).2 := by
  rw [show 4 ^ k = 2 ^ k * 2 ^ k from Nat.mul_pow 2 2 k]
  rfl

/-- The encoding loop over the `k` low planes looks at the `k` low bits only, so it is the loop of the square of side
`2^k`. -/
theorem hilbertDistLoop_mod {k b x y : Nat} (hk : k ≤ b) (hx : x < 2 ^ b) (hy : y < 2 ^ b) :
    hilbertDistLoop (2 ^ b) k x y = hilbertDistLoop (2 ^ k) k (x % 2 ^ k) (y % 2 ^ k) := by
  induction k generalizing b x y with
  | zero => rfl
  | succ k ih =>
    have hquadrant : ∀ {c u v}, k < c → u < 2 ^ c → v < 2 ^ c → ∀ rx ry,
        hilbertDistLoop (2 ^ c) k (hilbertRot (2 ^ c) u v rx ry).1 (hilbertRot (2 ^ c) u v rx ry).2 =
          hilbertDistLoop (2 ^ k) k (hilbertRot (2 ^ k) (u % 2 ^ k) (v % 2 ^ k) rx ry).1
            (hilbertRot (2 ^ k) (u % 2 ^ k) (v % 2 ^ k) rx ry).2 := fun hkc hu hv rx ry => by
      obtain ⟨hu', hv'⟩ := hilbertRot_lt rx ry hu hv
      rw [ih (by omega) hu' hv', hilbertRot_mod rx ry (by omega) hu hv]
    have hlow : ∀ u, u % 2 ^ (k + 1) < 2 ^ (k + 1) := fun u => Nat.mod_lt u (Nat.two_pow_pos _)
    have hmod : ∀ u, u % 2 ^ (k + 1) % 2 ^ k = u % 2 ^ k := fun u =>
      Nat.mod_mod_of_dvd u (pow_dvd_pow 2 (Nat.le_succ k))
    rw [hilbertDistLoop_succ, hilbertDistLoop_succ, hquadrant (by omega) hx hy,
      hquadrant (by omega) (hlow x) (hlow y), hmod, hmod, bitAt_mod_two_pow (by omega), bitAt_mod_two_pow (by omega)]

/-- One turn of the decoding loop: the cell `p` of the square of side `s` placed in the quadrant of the lowest digit of
`t`. -/
def placeInQuadrant (s t : Nat) (p : Nat × Nat) : Nat × Nat :=
  let r := hilbertRot s p.1 p.2 (quadrantX t) (quadrantY t)
  (r.1 + s * quadrantX t, r.2 + s * quadrantY t)

theorem hilbertCoordsLoop_succ (k s t x y : Nat) :
    hilbertCoordsLoop (k + 1) s t x y =
      hilbertCoordsLoop k (2 * s) (t / 4) (placeInQuadrant s t (x, y)).1 (placeInQuadrant s t (x, y)).2 := rfl

/-- The last turn of the decoding loop is the one for the highest digit. -/
theorem hilbertCoordsLoop_succ_last (k s t x y : Nat) :
    hilbertCoordsLoop (k + 1) s t x y = placeInQuadrant (s * 2 ^ k) (t / 4 ^ k) (hilbertCoordsLoop k s t x y) := by
  induction k generalizing s t x y with
  | zero => rw [hilbertCoordsLoop_succ, pow_zero, pow_zero, mul_one, Nat.div_one]; rfl
  | succ k ih =>
    rw [hilbertCoordsLoop_succ, ih, ← hilbertCoordsLoop_succ, Nat.div_div_eq_div_mul, pow_succ' 2, pow_succ' 4,
      Nat.mul_comm 2 s, Nat.mul_assoc]

/-- The decoding loop reads `k` base-4 digits. -/
theorem hilbertCoordsLoop_add (k s t x y q : Nat) :
    hilbertCoordsLoop k s (t + 4 ^ k * q) x y = hilbertCoordsLoop k s t x y := by
  induction k generalizing s t x y with
  | zero => rfl
  | succ k ih =>
    have hplace : ∀ p, placeInQuadrant s (t + 4 * (4 ^ k * q)) p = placeInQuadrant s t p := fun p => by
      simp only [placeInQuadrant, quadrantX_add_mul_four, quadrantY_add_mul_four]
    rw [pow_succ', Nat.mul_assoc, hilbertCoordsLoop_succ, hilbertCoordsLoop_succ, hplace,
      Nat.add_mul_div_left _ _ (by omega), ih]

/-- The distance of a cell of the square of side `2^k` (R157). -/
def hilbertIndex (k : Nat) (p : Nat × Nat) : Nat := hilbertDistLoop (2 ^ k) k p.1 p.2

/-- The cell at a distance in the square of side `2^k` (R158). -/
def hilbertCell (k d : Nat) : Nat × Nat := hilbertCoordsLoop k 1 d 0 0

theorem hilbertDist_two_pow (x y k : Nat) : hilbertDist [x, y] (2 ^ k) = hilbertIndex k (x, y) := by
  rw [hilbertDist, Nat.log2_two_pow]; rfl

theorem hilbertCoords_two_pow (d k : Nat) : hilbertCoords d (2 ^ k) = [(hilbertCell k d).1, (hilbertCell k d).2] := by
  rw [hilbertCoords, Nat.log2_two_pow]; rfl

theorem bitAt_add_two_pow_mul {k x r : Nat} (hx : x < 2 ^ k) (hr : r < 2) : bitAt (x + 2 ^ k * r) k = r := by
  rw [bitAt_eq_div_mod, Nat.add_mul_div_left _ _ (Nat.two_pow_pos k), Nat.div_eq_of_lt hx]
  omega

theorem add_two_pow_mul_lt {k x r : Nat} (hx : x < 2 ^ k) (hr : r < 2) : x + 2 ^ k * r < 2 ^ (k + 1) := by
  have hterm : 2 ^ k * r ≤ 2 ^ k * 1 := Nat.mul_le_mul_left _ (by omega)
  rw [pow_succ]
  omega

theorem exists_low_high {k x : Nat} (hx : x < 2 ^ (k + 1)) : ∃ u r, u < 2 ^ k ∧ r < 2 ∧ x = u + 2 ^ k * r :=
  ⟨x % 2 ^ k, x / 2 ^ k, Nat.mod_lt x (Nat.two_pow_pos k), Nat.div_lt_of_lt_mul (pow_succ 2 k ▸ hx),
    (Nat.mod_add_div x _).symm⟩

/-- The curve of side `2^(k+1)` is a rotated copy of the curve of side `2^k` in each quadrant. -/
theorem hilbertIndex_succ {k x y rx ry : Nat} (hrx : rx < 2) (hry : ry < 2) (hx : x < 2 ^ k) (hy : y < 2 ^ k) :
    hilbertIndex (k + 1) (x + 2 ^ k * rx, y + 2 ^ k * ry) =
      4 ^ k * quadrantDigit rx ry + hilbertIndex k (hilbertRot (2 ^ k) x y rx ry) := by
  have hx' := add_two_pow_mul_lt hx hrx
  have hy' := add_two_pow_mul_lt hy hry
  obtain ⟨hu, hv⟩ := hilbertRot_lt rx ry hx' hy'
  have hrot := hilbertRot_mod rx ry (Nat.le_succ k) hx' hy'
  rw [Nat.add_mul_mod_self_left, Nat.add_mul_mod_self_left, Nat.mod_eq_of_lt hx, Nat.mod_eq_of_lt hy] at hrot
  rw [hilbertIndex, hilbertDistLoop_succ, bitAt_add_two_pow_mul hx hrx, bitAt_add_two_pow_mul hy hry,
    hilbertDistLoop_mod (Nat.le_succ k) hu hv, hrot, hilbertIndex]

theorem hilbertCell_succ {k q e : Nat} (he : e < 4 ^ k) :
    hilbertCell (k + 1) (4 ^ k * q + e) = placeInQuadrant (2 ^ k) q (hilbertCell k e) := by
  have hdigit : (4 ^ k * q + e) / 4 ^ k = q := by
    rw [Nat.mul_add_div (Nat.pow_pos (by omega)), Nat.div_eq_of_lt he, Nat.add_zero]
  rw [hilbertCell, hilbertCoordsLoop_succ_last, hdigit, one_mul, Nat.add_comm, hilbertCoordsLoop_add]
  rfl

theorem hilbertIndex_hilbertCell (k d : Nat) (hd : d < 4 ^ k) :
    (hilbertCell k d).1 < 2 ^ k ∧ (hilbertCell k d).2 < 2 ^ k ∧ hilbertIndex k (hilbertCell k d) = d := by
  induction k generalizing d with
  | zero => exact ⟨Nat.one_pos, Nat.one_pos, (Nat.lt_one_iff.mp hd).symm⟩
  | succ k ih =>
    have hpos : 0 < 4 ^ k := Nat.pow_pos (by omega)
    have hsplit : 4 ^ k * (d / 4 ^ k) + d % 4 ^ k = d := Nat.div_add_mod d _
    have hrest : d % 4 ^ k < 4 ^ k := Nat.mod_lt d hpos
    have hdigit : d / 4 ^ k < 4 := Nat.div_lt_of_lt_mul (pow_succ 4 k ▸ hd)
    generalize d / 4 ^ k = q at hsplit hdigit
    generalize d % 4 ^ k = e at hsplit hrest
    subst hsplit
    obtain ⟨hx, hy, hindex⟩ := ih e hrest
    obtain ⟨hu, hv⟩ := hilbertRot_lt (quadrantX q) (quadrantY q) hx hy
    rw [hilbertCell_succ hrest, placeInQuadrant]
    refine ⟨add_two_pow_mul_lt hu (quadrantX_lt_two q), add_two_pow_mul_lt hv (quadrantY_lt_two q), ?_⟩
    rw [hilbertIndex_succ (quadrantX_lt_two q) (quadrantY_lt_two q) hu hv, hilbertRot_involutive _ _ hx hy, hindex,
      quadrantDigit_quadrant q hdigit]

theorem hilbertCell_hilbertIndex (k x y : Nat) (hx : x < 2 ^ k) (hy : y < 2 ^ k) :
    hilbertIndex k (x, y) < 4 ^ k ∧ hilbertCell k (hilbertIndex k (x, y)) = (x, y) := by
  induction k generalizing x y with
  | zero => exact ⟨Nat.one_pos, by rw [Nat.lt_one_iff.mp hx, Nat.lt_one_iff.mp hy]; rfl⟩
  | succ k ih =>
    obtain ⟨u, rx, hu, hrx, rfl⟩ := exists_low_high hx
    obtain ⟨v, ry, hv, hry, rfl⟩ := exists_low_high hy
    obtain ⟨hdigit, hdx, hdy⟩ := quadrant_quadrantDigit rx hrx ry hry
    obtain ⟨hu', hv'⟩ := hilbertRot_lt rx ry hu hv
    obtain ⟨hlt, hcell⟩ := ih _ _ hu' hv'
    rw [Prod.mk.eta] at hlt hcell
    rw [hilbertIndex_succ hrx hry hu hv]
    refine ⟨?_, ?_⟩
    · have hterm : 4 ^ k * quadrantDigit rx ry ≤ 4 ^ k * 3 := Nat.mul_le_mul_left _ (by omega)
      rw [pow_succ]
      omega
    · rw [hilbertCell_succ hlt, hcell, placeInQuadrant, hdx, hdy, hilbertRot_involutive rx ry hu hv]

theorem hilbert_inverse (k : Nat) :
    InverseConversions (fun xs => hilbertDist xs (2 ^ k)) (fun d => hilbertCoords d (2 ^ k)) 2 (2 ^ k) := by
  unfold InverseConversions
  rw [show (2 ^ k) ^ 2 = 4 ^ k by rw [← pow_mul, Nat.mul_comm, pow_mul]; rfl]
  refine ⟨fun d hd => ?_, fun xs hlen hxs => ?_⟩
  · obtain ⟨hx, hy, hindex⟩ := hilbertIndex_hilbertCell k d hd
    simp only [hilbertCoords_two_pow, hilbertDist_two_pow, hindex]
    exact ⟨rfl, by simp [hx, hy], trivial⟩
  · obtain ⟨x, y, rfl⟩ := List.length_eq_two.mp hlen
    obtain ⟨hlt, hcell⟩ := hilbertCell_hilbertIndex k x y (hxs x (by simp)) (hxs y (by simp))
    simp only [hilbertCoords_two_pow, hilbertDist_two_pow, hcell]
    exact ⟨hlt, trivial⟩

/-! ### The four variants -/

/-- Settles O27: each variant by its own pair of inverse conversions. -/
theorem curvesAreBijections : Obligations.CurvesAreBijections := by
  unfold Obligations.CurvesAreBijections
  rintro k n l ⟨hn, -, hdims, hl, -, hpow, hwidth, -⟩
  cases k with
  | rowMajor => exact rowMajor_inverse n hl
  | morton =>
    obtain ⟨b, rfl⟩ := hpow (by decide)
    exact morton_inverse hn b
  | gray =>
    obtain ⟨b, rfl⟩ := hpow (by decide)
    exact gray_inverse hn (hwidth (.inr rfl) b rfl)
  | hilbert =>
    obtain ⟨b, rfl⟩ := hpow (by decide)
    obtain rfl := hdims rfl
    exact hilbert_inverse b

end Sys2Proof.Machine

/-! PROOFS. The reorderer (43_reorder.md): its checks in their order (R202), and what both strategies do to the elements
of the region (R200): cycle following (R204) by an invariant on the marks of the visited indices, the temporary
(R206) by induction on the elements. -/

namespace Sys2Proof.Machine

/-! ### The checks (R202) -/

/-- The checks of the two slots, which follow the common checks (R202). -/
def State.pairChecks (s : State) (f g : SlotId) : Except Raised (CurveSlot × CurveSlot) := do
  let cf ← s.checkSlot f
  let cg ← s.checkSlot g
  check (!(cf.n == cg.n && cf.l == cg.l)) ⟨.eReordMismatch, slotNumber g⟩
  check (!(s.len.toNat == slotTotal cf)) ⟨.eReordLen, s.len.toNat⟩
  return (cf, cg)

section
variable {s : State} {f g : SlotId} {i : Instr} {e : Raised}

theorem State.reorderChecks_eq_bind :
    s.reorderChecks f g = (commonChecks (.reordi f g) s >>= fun _ => s.pairChecks f g) := by
  simp only [commonChecks_reordi, bind_assoc]
  rfl

/-- Once the common checks pass, the slots decide. -/
theorem State.reorderChecks_of_inputReady (hew : s.EwLegal) (hin : s.InputReady (s.len.toNat * s.ew.toNat)) :
    s.reorderChecks f g = s.pairChecks f g := by
  have hcommon : commonChecks (.reordi f g) s = .ok () :=
    commonChecks_of_inputReady (fun _ => hew) fun n hn => Option.some.inj hn ▸ hin
  rw [State.reorderChecks_eq_bind, hcommon]
  rfl

theorem State.pairChecks_of_not_valid_from (hf : (s.slot f).valid = false) :
    s.pairChecks f g = .error ⟨.eNotConstructed, slotNumber f⟩ := by
  rw [State.pairChecks, State.checkSlot_error.mpr ⟨hf, rfl⟩]
  rfl

theorem State.pairChecks_of_not_valid_to (hf : (s.slot f).valid = true) (hg : (s.slot g).valid = false) :
    s.pairChecks f g = .error ⟨.eNotConstructed, slotNumber g⟩ := by
  rw [State.pairChecks, State.checkSlot_ok.mpr ⟨hf, rfl⟩, State.checkSlot_error.mpr ⟨hg, rfl⟩]
  rfl

/-- Once both slots are valid, the two comparisons decide. -/
theorem State.pairChecks_of_valid (hf : (s.slot f).valid = true) (hg : (s.slot g).valid = true) :
    s.pairChecks f g =
      if (s.slot f).n = (s.slot g).n ∧ (s.slot f).l = (s.slot g).l then
        if s.len.toNat = (s.slot f).l.toNat ^ (s.slot f).n.toNat then .ok (s.slot f, s.slot g)
        else .error ⟨.eReordLen, s.len.toNat⟩
      else .error ⟨.eReordMismatch, slotNumber g⟩ := by
  rw [State.pairChecks, State.checkSlot_ok.mpr ⟨hf, rfl⟩, State.checkSlot_ok.mpr ⟨hg, rfl⟩]
  change (check _ _ >>= fun _ => check _ _ >>= fun _ => pure _) = _
  rw [check_bind, check_bind]
  simp only [Bool.not_eq_true', ← Bool.not_eq_true, ite_not, Bool.and_eq_true, beq_iff_eq, slotTotal]
  rfl

/-- Both reorder commands raise what their checks raise, and change nothing but the fault record. -/
theorem exec_trapped_of_reorderChecks_error (hi : i = .reordi f g ∨ i = .reordt f g)
    (h : s.reorderChecks f g = .error e) : ∃ t, exec i s = .next t ∧ Trapped s t e := by
  refine ⟨s.raise e, ?_, s.trapped e⟩
  obtain rfl | rfl := hi
  · simp only [exec, execReordi, h]; rfl
  · simp only [exec, execReordt, h]; rfl

end

/-- Settles O35: the common checks by the order they have in every bulk command, the others by what the checks of the
two slots raise. -/
theorem reorderChecksInOrder : Obligations.ReorderChecksInOrder := by
  unfold Obligations.ReorderChecksInOrder
  intro f g s i hi
  have hwf : i.wellFormed = true := by obtain rfl | rfl := hi <;> rfl
  have huse : usesEw i = true := by obtain rfl | rfl := hi <;> rfl
  have hbytes : inputBytes i s = some (s.len.toNat * s.ew.toNat) := by obtain rfl | rfl := hi <;> rfl
  obtain ⟨hewFault, hinFault, -⟩ := commonChecksInOrder i s hwf
  refine ⟨hewFault huse, fun hew => ?_⟩
  obtain ⟨hlenFault, hpaFault⟩ := hinFault (fun _ => hew) _ hbytes
  refine ⟨hlenFault, hpaFault, fun hin => ?_⟩
  have hpair := State.reorderChecks_of_inputReady (f := f) (g := g) hew hin
  refine ⟨fun hf => ?_, fun hf hg => ?_, fun hf hg => ⟨fun hne => ?_, fun hn hl hlen => ?_⟩⟩ <;>
    apply exec_trapped_of_reorderChecks_error hi <;> rw [hpair]
  · exact State.pairChecks_of_not_valid_from hf
  · exact State.pairChecks_of_not_valid_to hf hg
  · rw [State.pairChecks_of_valid hf hg, if_neg (not_and_or.mpr hne)]
  · rw [State.pairChecks_of_valid hf hg, if_pos ⟨hn, hl⟩, if_neg hlen]

/-! ### Rearranging a list of elements -/

/-- `pi` maps the indices below `n` to themselves, no two to the same one. -/
structure PermutesBelow (pi : Nat → Nat) (n : Nat) : Prop where
  lt : ∀ {i}, i < n → pi i < n
  inj : ∀ {i j}, i < n → j < n → pi i = pi j → i = j

/-- `out` is `data` with the element of every index `i` moved to index `pi i` (R201). -/
def Rearranged (pi : Nat → Nat) (data out : List Nat) : Prop :=
  out.length = data.length ∧ ∀ i < data.length, out.getD (pi i) 0 = data.getD i 0

theorem getD_set {α : Type} {xs : List α} {k : Nat} (hk : k < xs.length) (x d : α) (p : Nat) :
    (xs.set k x).getD p d = if p = k then x else xs.getD p d := by
  simp only [List.getD_eq_getElem?_getD, List.getElem?_set, eq_comm (a := k)]
  split_ifs <;> rfl

/-! ### The temporary (R206) -/

section
variable {pi : Nat → Nat} {n : Nat}

/-- The elements from index `i` on go to their targets, and those placed before stay where they are. -/
theorem scatterFrom_ok (hpi : PermutesBelow pi n) {xs temp : List Nat} {i : Nat} (htemp : temp.length = n)
    (hi : i + xs.length ≤ n) : ∃ out, scatterFrom pi n i xs temp = .ok out ∧ out.length = n
      ∧ (∀ k < xs.length, out.getD (pi (i + k)) 0 = xs.getD k 0)
      ∧ ∀ j < i, out.getD (pi j) 0 = temp.getD (pi j) 0 := by
  induction xs generalizing i temp with
  | nil => exact ⟨temp, rfl, htemp, fun k hk => absurd hk (Nat.not_lt_zero k), fun _ _ => rfl⟩
  | cons x xs ih =>
    rw [List.length_cons] at hi
    have hin : i < n := by omega
    obtain ⟨out, hout, hlen, hplaced, hkept⟩ := ih (temp := temp.set (pi i) x) (i := i + 1) (by simpa) (by omega)
    have hset := getD_set (htemp ▸ hpi.lt hin) x 0
    refine ⟨out, ?_, hlen, fun k hk => ?_, fun j hj => ?_⟩
    · rw [scatterFrom, if_neg (Nat.not_le.mpr (hpi.lt hin)), hout]
    · cases k with
      | zero => rw [Nat.add_zero, hkept i (by omega), hset, if_pos rfl, List.getD_cons_zero]
      | succ k =>
        rw [List.getD_cons_succ, ← hplaced k (Nat.lt_of_succ_lt_succ hk), Nat.add_assoc, Nat.add_comm 1 k]
    · have hne : pi j ≠ pi i := fun h => hj.ne (hpi.inj (by omega) hin h)
      rw [hkept j (by omega), hset, if_neg hne]

theorem scatter_ok {data : List Nat} (hpi : PermutesBelow pi data.length) :
    ∃ out, scatter pi data = .ok out ∧ Rearranged pi data out := by
  obtain ⟨out, hout, hlen, hplaced, -⟩ :=
    scatterFrom_ok hpi (xs := data) (i := 0) (List.length_replicate (a := 0)) (Nat.zero_add _).le
  refine ⟨out, hout, hlen, fun i hi => ?_⟩
  rw [← hplaced i hi, Nat.zero_add]

/-! ### Cycle following (R204): the marks -/

/-- The visited list marks the index `p`. -/
def Marked (visited : List Bool) (p : Nat) : Prop := visited.getD p false = true

theorem marked_set {visited : List Bool} {k : Nat} (hk : k < visited.length) (p : Nat) :
    Marked (visited.set k true) p ↔ p = k ∨ Marked visited p := by
  rw [Marked, getD_set hk]
  split_ifs with h <;> simp [h, Marked]

theorem count_false_set {visited : List Bool} {k : Nat} (hk : k < visited.length) (hmark : ¬ Marked visited k) :
    (visited.set k true).count false + 1 = visited.count false := by
  have hfalse : visited[k] = false := by simpa [Marked, hk] using hmark
  have hpos : 0 < visited.count false := List.count_pos_iff.mpr (hfalse ▸ List.getElem_mem hk)
  simp [List.count_set hk, hfalse]
  omega

/-- The marked indices are whole cycles of `pi`. -/
def WholeCycles (pi : Nat → Nat) (n : Nat) (visited : List Bool) : Prop :=
  ∀ q < n, Marked visited (pi q) ↔ Marked visited q

/-- The marked indices are whole cycles of `pi` and the indices met after `start` on its cycle, `cur` the last of them:
`cur` alone, of the marked indices and `start`, has a target that is not marked. -/
structure OpenCycle (pi : Nat → Nat) (n start cur : Nat) (visited : List Bool) : Prop where
  start_lt : start < n
  cur_lt : cur < n
  start_unmarked : ¬ Marked visited start
  cur_met : Marked visited cur ∨ cur = start
  marked_target : ∀ q < n, Marked visited (pi q) ↔ (Marked visited q ∨ q = start) ∧ q ≠ cur

variable {start cur : Nat} {visited : List Bool}

theorem WholeCycles.openCycle (h : WholeCycles pi n visited) (hstart : start < n) (hmark : ¬ Marked visited start) :
    OpenCycle pi n start start visited where
  start_lt := hstart
  cur_lt := hstart
  start_unmarked := hmark
  cur_met := .inr rfl
  marked_target q hq := by
    rw [h q hq]
    grind

/-- The next index of the cycle is not marked yet. -/
theorem OpenCycle.target_unmarked (h : OpenCycle pi n start cur visited) : ¬ Marked visited (pi cur) := fun hmark =>
  ((h.marked_target cur h.cur_lt).mp hmark).2 rfl

theorem OpenCycle.marked_set (h : OpenCycle pi n start cur visited) (hpi : PermutesBelow pi n)
    (hlen : visited.length = n) (p : Nat) :
    Marked (visited.set (pi cur) true) p ↔ p = pi cur ∨ Marked visited p :=
  Machine.marked_set (hlen ▸ hpi.lt h.cur_lt) p

/-- Marking the next index leaves one index fewer not marked. -/
theorem OpenCycle.count_false_set (h : OpenCycle pi n start cur visited) (hpi : PermutesBelow pi n)
    (hlen : visited.length = n) : (visited.set (pi cur) true).count false + 1 = visited.count false :=
  Machine.count_false_set (hlen ▸ hpi.lt h.cur_lt) h.target_unmarked

/-- With the target of `cur` marked too, the targets of exactly the marked indices and `start` are marked. -/
theorem OpenCycle.marked_target_set (h : OpenCycle pi n start cur visited) (hpi : PermutesBelow pi n)
    (hlen : visited.length = n) {q : Nat} (hq : q < n) :
    Marked (visited.set (pi cur) true) (pi q) ↔ Marked visited q ∨ q = start := by
  have hinj : pi q = pi cur ↔ q = cur := ⟨hpi.inj hq h.cur_lt, congrArg pi⟩
  rw [h.marked_set hpi hlen, h.marked_target q hq, hinj]
  have hcur := h.cur_met
  grind

/-- The cycle closes when the next index is `start`. -/
theorem OpenCycle.close (h : OpenCycle pi n start cur visited) (hpi : PermutesBelow pi n) (hlen : visited.length = n)
    (hclose : pi cur = start) : WholeCycles pi n (visited.set (pi cur) true) := fun q hq => by
  rw [h.marked_target_set hpi hlen hq, h.marked_set hpi hlen, hclose, or_comm]

/-- The cycle goes on from the next index when that is not `start`. -/
theorem OpenCycle.advance (h : OpenCycle pi n start cur visited) (hpi : PermutesBelow pi n)
    (hlen : visited.length = n) (hopen : pi cur ≠ start) :
    OpenCycle pi n start (pi cur) (visited.set (pi cur) true) := by
  have hset := h.marked_set hpi hlen
  have hfresh := h.target_unmarked
  exact {
    start_lt := h.start_lt
    cur_lt := hpi.lt h.cur_lt
    start_unmarked := fun hmark => ((hset start).mp hmark).elim (fun he => hopen he.symm) h.start_unmarked
    cur_met := .inl ((hset _).mpr (.inl rfl))
    marked_target := fun q hq => by
      rw [h.marked_target_set hpi hlen hq, hset]
      grind }

end

/-! ### Cycle following (R204): the elements -/

/-- The state of cycle following on the block `orig`: an index that is marked holds the element that belongs there, and
every other index still holds its own. -/
structure PartlyMoved (pi : Nat → Nat) (orig : List Nat) (d : List Nat × List Bool) : Prop where
  length_data : d.1.length = orig.length
  length_visited : d.2.length = orig.length
  moved : ∀ q < orig.length, Marked d.2 (pi q) → d.1.getD (pi q) 0 = orig.getD q 0
  kept : ∀ p < orig.length, ¬ Marked d.2 p → d.1.getD p 0 = orig.getD p 0

section
variable {pi : Nat → Nat} {orig data : List Nat} {visited : List Bool} {start cur : Nat}

/-- Nothing is marked at the start. -/
theorem not_marked_replicate (n p : Nat) : ¬ Marked (List.replicate n false) p := by
  simp only [Marked, List.getD_eq_getElem?_getD, List.getElem?_replicate]
  split_ifs <;> simp

theorem partlyMoved_start : PartlyMoved pi orig (orig, List.replicate orig.length false) where
  length_data := rfl
  length_visited := List.length_replicate
  moved _ _ hmark := absurd hmark (not_marked_replicate _ _)
  kept _ _ _ := rfl

/-- Putting the element of `cur` at its target and marking the target. -/
theorem PartlyMoved.place (h : PartlyMoved pi orig (data, visited)) (hpi : PermutesBelow pi orig.length)
    (hcur : cur < orig.length) :
    PartlyMoved pi orig (data.set (pi cur) (orig.getD cur 0), visited.set (pi cur) true) := by
  have hdata : data.length = orig.length := h.length_data
  have hvisited : visited.length = orig.length := h.length_visited
  have hset := getD_set (hdata ▸ hpi.lt hcur) (orig.getD cur 0) 0
  have hmark := marked_set (hvisited ▸ hpi.lt hcur)
  refine ⟨by simpa, by simpa, fun q hq hm => ?_, fun p hp hm => ?_⟩
  · dsimp only at hm ⊢
    rw [hset]
    split_ifs with htarget
    · rw [hpi.inj hq hcur htarget]
    · exact h.moved q hq (((hmark _).mp hm).resolve_left htarget)
  · dsimp only at hm ⊢
    obtain ⟨htarget, hm⟩ := not_or.mp (mt (hmark p).mpr hm)
    rw [hset, if_neg htarget]
    exact h.kept p hp hm

/-- One cycle, from `cur` on, moves its elements and leaves whole cycles marked. Each turn marks one index more, so the
number of those not marked is fuel enough. -/
theorem followCycle_ok (hpi : PermutesBelow pi orig.length) {fuel : Nat}
    (hmoved : PartlyMoved pi orig (data, visited)) (hopen : OpenCycle pi orig.length start cur visited)
    (hfuel : visited.count false ≤ fuel) :
    ∃ d, followCycle pi orig.length start fuel cur (orig.getD cur 0) (data, visited) = .ok d
      ∧ PartlyMoved pi orig d ∧ WholeCycles pi orig.length d.2 ∧ Marked d.2 start
      ∧ ∀ p, Marked visited p → Marked d.2 p := by
  induction fuel generalizing cur data visited with
  | zero =>
    have hcount := hopen.count_false_set hpi hmoved.length_visited
    omega
  | succ fuel ih =>
    have hlen : visited.length = orig.length := hmoved.length_visited
    have hcount := hopen.count_false_set hpi hlen
    have hmark := hopen.marked_set hpi hlen
    have htarget := hpi.lt hopen.cur_lt
    have hplace := hmoved.place hpi hopen.cur_lt
    rw [followCycle, if_neg (Nat.not_le.mpr htarget)]
    by_cases hclose : pi cur = start
    · rw [if_pos hclose]
      exact ⟨_, rfl, hplace, hopen.close hpi hlen hclose, (hmark _).mpr (.inl hclose.symm),
        fun p hp => (hmark p).mpr (.inr hp)⟩
    · have hcarry : data.getD (pi cur) 0 = orig.getD (pi cur) 0 := hmoved.kept _ htarget hopen.target_unmarked
      rw [if_neg hclose, hcarry]
      obtain ⟨d, hd, hmoved', hwhole, hstart, hkeeps⟩ := ih hplace (hopen.advance hpi hlen hclose) (by omega)
      exact ⟨d, hd, hmoved', hwhole, hstart, fun p hp => hkeeps p ((hmark p).mpr (.inr hp))⟩

/-- The outer loop leaves every start index marked. -/
theorem followCycles_ok (hpi : PermutesBelow pi orig.length) {starts : List Nat}
    (hstarts : ∀ p ∈ starts, p < orig.length) (hmoved : PartlyMoved pi orig (data, visited))
    (hwhole : WholeCycles pi orig.length visited) :
    ∃ d, followCycles pi orig.length starts (data, visited) = .ok d ∧ PartlyMoved pi orig d
      ∧ (∀ p ∈ starts, Marked d.2 p) ∧ ∀ p, Marked visited p → Marked d.2 p := by
  induction starts generalizing data visited with
  | nil => exact ⟨_, rfl, hmoved, by simp, fun _ hp => hp⟩
  | cons start starts ih =>
    obtain ⟨hstart, hrest⟩ := List.forall_mem_cons.mp hstarts
    rw [followCycles]
    by_cases hmark : Marked visited start
    · obtain ⟨d, hd, hmoved', hall, hkeeps⟩ := ih hrest hmoved hwhole
      exact ⟨d, (if_pos hmark).trans hd, hmoved', List.forall_mem_cons.mpr ⟨hkeeps _ hmark, hall⟩, hkeeps⟩
    · have hfuel : visited.count false ≤ orig.length := List.count_le_length.trans_eq hmoved.length_visited
      obtain ⟨⟨data', visited'⟩, hcycle, hmoved', hwhole', hmet, hkeeps⟩ :=
        followCycle_ok hpi hmoved (hwhole.openCycle hstart hmark) hfuel
      obtain ⟨d, hd, hmoved'', hall, hkeeps'⟩ := ih hrest hmoved' hwhole'
      have hcarry : data.getD start 0 = orig.getD start 0 := hmoved.kept start hstart hmark
      refine ⟨d, (if_neg hmark).trans ?_, hmoved'', List.forall_mem_cons.mpr ⟨hkeeps' _ hmet, hall⟩,
        fun p hp => hkeeps' p (hkeeps p hp)⟩
      rw [hcarry, hcycle]
      exact hd

theorem cycleFollow_ok (hpi : PermutesBelow pi orig.length) :
    ∃ out, cycleFollow pi orig = .ok out ∧ Rearranged pi orig out := by
  have hwhole : WholeCycles pi orig.length (List.replicate orig.length false) := fun q _ =>
    iff_of_false (not_marked_replicate _ _) (not_marked_replicate _ _)
  obtain ⟨d, hd, hmoved, hall, -⟩ :=
    followCycles_ok hpi (fun p => List.mem_range.mp) partlyMoved_start hwhole
  refine ⟨d.1, by rw [cycleFollow, hd], hmoved.length_data, fun i hi => hmoved.moved i hi ?_⟩
  exact hall _ (List.mem_range.mpr (hpi.lt hi))

end

/-! ### The elements of a region of memory -/

theorem State.readBytes_add (s : State) (a m n : Nat) :
    s.readBytes a (m + n) = s.readBytes a m ++ s.readBytes (a + m) n := by
  induction m generalizing a with
  | zero => simp [State.readBytes]
  | succ m ih =>
    rw [Nat.add_right_comm, State.readBytes, State.readBytes, ih, List.cons_append, Nat.add_assoc a 1 m,
      Nat.add_comm 1 m]

/-- The elements of a region are what `ElemRead` gives (00_scope.md R14). -/
theorem State.getD_readElems (s : State) (base ew : Nat) {n k : Nat} (hk : k < n) :
    (s.readElems base ew n).getD k 0 = s.elem base ew k := by
  induction n generalizing base k with
  | zero => exact absurd hk (Nat.not_lt_zero k)
  | succ n ih =>
    have hsplit : s.readElems base ew (n + 1) = s.elem base ew 0 :: s.readElems (base + ew) ew n := by
      simp only [State.readElems, State.elem, elements, Nat.succ_mul, Nat.add_comm (n * ew), State.readBytes_add,
        List.take_left' (s.length_readBytes base ew), List.drop_left' (s.length_readBytes base ew), Nat.zero_mul,
        Nat.add_zero]
    rw [hsplit]
    cases k with
    | zero => rfl
    | succ k =>
      rw [List.getD_cons_succ, ih _ (Nat.lt_of_succ_lt_succ hk), State.elem, State.elem, Nat.succ_mul, Nat.add_assoc,
        Nat.add_comm ew]

theorem State.elem_lt (s : State) (base ew k : Nat) : s.elem base ew k < 256 ^ ew := by
  simpa [State.elem] using leValue_lt (s.readBytes (base + k * ew) ew)

theorem SameMemory.readBytes {s t : State} (h : SameMemory s t) (a n : Nat) : t.readBytes a n = s.readBytes a n := by
  induction n generalizing a with
  | zero => rfl
  | succ n ih => rw [State.readBytes, State.readBytes, h a, ih]

theorem SameMemory.elem {s t : State} (h : SameMemory s t) (base ew k : Nat) : t.elem base ew k = s.elem base ew k :=
  congrArg leValue (h.readBytes _ _)

/-- A run of bytes that was written is read back. -/
theorem State.readBytes_writeBytes_same (s : State) (a : Nat) (bs : List Byte) :
    (s.writeBytes a bs).readBytes a bs.length = bs := by
  refine List.ext_getElem? fun i => ?_
  obtain hi | hi := Nat.lt_or_ge i bs.length
  · have hin : a ≤ a + i ∧ a + i < a + bs.length := by omega
    rw [State.getElem?_readBytes _ _ _ _ hi, State.readByte_writeBytes, if_pos hin]
    simp [hi]
  · rw [List.getElem?_eq_none (by simpa), List.getElem?_eq_none hi]

/-- Elements that were written are read back, each cut to its width. -/
theorem State.elem_writeBytes_serialize (s : State) (base ew : Nat) {xs : List Nat} {k : Nat} (hk : k < xs.length) :
    (s.writeBytes base (serialize ew xs)).elem base ew k = xs.getD k 0 % 256 ^ ew := by
  have hbytes := s.readBytes_writeBytes_same base (serialize ew xs)
  have helems := elements_serialize ew xs []
  rw [length_serialize] at hbytes
  rw [List.append_nil] at helems
  rw [← State.getD_readElems _ _ _ hk, State.readElems, hbytes, helems]
  simp [hk]

/-- The input elements of a command, in the region they stand in. -/
theorem State.getD_inElems (s : State) {k : Nat} (hk : k < s.len.toNat) :
    s.inElems.getD k 0 = s.elem s.pa.toNat s.ew.toNat k := s.getD_readElems _ _ hk

@[simp] theorem State.length_inElems (s : State) : s.inElems.length = s.len.toNat := by
  simp [State.inElems, State.readElems]

/-! ### The commands -/

/-- The index on curve `g` of the cell of a coordinate tuple, from its index on curve `f` (R201). -/
theorem reorderTarget_coordsToDist {f g : CurveSlot} (hf : LegalCurve f.type f.n.toNat f.l.toNat) {xs : List Nat}
    (hlen : xs.length = f.n.toNat) (hxs : ∀ x ∈ xs, x < f.l.toNat) :
    reorderTarget f g (coordsToDist f.type xs f.n.toNat f.l.toNat) = coordsToDist g.type xs g.n.toNat g.l.toNat := by
  obtain ⟨-, hcoords⟩ := curvesAreBijections _ _ _ hf
  rw [reorderTarget, (hcoords xs hlen hxs).2]

/-- Between two curves of the same cells the targets are a permutation of the indices (R201). -/
theorem reorderTarget_permutes {f g : CurveSlot} (hf : LegalCurve f.type f.n.toNat f.l.toNat)
    (hg : LegalCurve g.type g.n.toNat g.l.toNat) (hn : f.n = g.n) (hl : f.l = g.l) :
    PermutesBelow (reorderTarget f g) (f.l.toNat ^ f.n.toNat) := by
  obtain ⟨hdist, -⟩ := curvesAreBijections _ _ _ hf
  obtain ⟨-, hcoords⟩ := curvesAreBijections _ _ _ hg
  rw [← hn, ← hl] at hcoords
  have hcell : ∀ {i}, i < f.l.toNat ^ f.n.toNat → reorderTarget f g i < f.l.toNat ^ f.n.toNat
      ∧ distToCoords g.type (reorderTarget f g i) f.n.toNat f.l.toNat =
        distToCoords f.type i f.n.toNat f.l.toNat := by
    intro i hi
    obtain ⟨hlen, hlt, -⟩ := hdist i hi
    rw [reorderTarget, ← hn, ← hl]
    exact hcoords _ hlen hlt
  refine ⟨fun hi => (hcell hi).1, fun {i j} hi hj hij => ?_⟩
  obtain ⟨-, hcelli⟩ := hcell hi
  obtain ⟨-, hcellj⟩ := hcell hj
  obtain ⟨-, -, hindexi⟩ := hdist i hi
  obtain ⟨-, -, hindexj⟩ := hdist j hj
  rw [← hindexi, ← hindexj, ← hcelli, ← hcellj, hij]

/-- Past their checks, both reorder commands write the rearranged elements back and clear `OLEN` (R203, R206). -/
theorem exec_of_reorderChecks_ok {s : State} {f g : SlotId} {i : Instr} (hi : i = .reordi f g ∨ i = .reordt f g)
    {cf cg : CurveSlot} (h : s.reorderChecks f g = .ok (cf, cg))
    (hpi : PermutesBelow (reorderTarget cf cg) s.len.toNat) :
    ∃ out, Rearranged (reorderTarget cf cg) s.inElems out
      ∧ exec i s = .next { s.writeBytes s.pa.toNat (serialize s.ew.toNat out) with olen := 0 } := by
  rw [← s.length_inElems] at hpi
  obtain rfl | rfl := hi
  · obtain ⟨out, hout, hrearranged⟩ := cycleFollow_ok hpi
    refine ⟨out, hrearranged, ?_⟩
    simp only [exec, execReordi, h, bind, Except.bind, hout]
    rfl
  · obtain ⟨out, hout, hrearranged⟩ := scatter_ok hpi
    refine ⟨out, hrearranged, ?_⟩
    simp only [exec, execReordt, h, bind, Except.bind, hout]
    rfl

/-- Settles O34: the targets are a permutation of the indices, along which both strategies rearrange the elements. -/
theorem reorderPermutes : Obligations.ReorderPermutes := by
  unfold Obligations.ReorderPermutes
  intro f g s i hi hokf hokg hf hg hn hl hew hin hlen
  have hcurve := hokf hf
  have hpi := reorderTarget_permutes hcurve (hokg hg) hn hl
  have hchecks : s.reorderChecks f g = .ok (s.slot f, s.slot g) := by
    rw [State.reorderChecks_of_inputReady hew hin, State.pairChecks_of_valid hf hg, if_pos ⟨hn, hl⟩, if_pos hlen]
  obtain ⟨out, ⟨hout, hmoved⟩, hexec⟩ := exec_of_reorderChecks_ok hi hchecks (hlen ▸ hpi)
  rw [s.length_inElems] at hout hmoved
  refine ⟨_, hexec, fun xs hxlen hxs => ?_, fun a ha => ?_, rfl, rfl⟩
  · obtain ⟨hfrom, -⟩ := (curvesAreBijections _ _ _ hcurve).2 xs hxlen hxs
    have hto := hpi.lt hfrom
    rw [← hlen] at hfrom hto
    have hwritten : SameMemory (s.writeBytes s.pa.toNat (serialize s.ew.toNat out))
        { s.writeBytes s.pa.toNat (serialize s.ew.toNat out) with olen := 0 } := fun _ => rfl
    rw [← reorderTarget_coordsToDist hcurve hxlen hxs, hwritten.elem,
      State.elem_writeBytes_serialize _ _ _ (hout ▸ hto), hmoved _ hfrom, s.getD_inElems hfrom,
      Nat.mod_eq_of_lt (s.elem_lt ..)]
  · refine (s.readByte_writeBytes _ a _).trans (if_neg ?_)
    rwa [length_serialize, hout]

end Sys2Proof.Machine

/-! PROOFS. The illegal word (60_exceptions.md R384): it is not the word of `CLRERR`, so it is dropped while a fault is
recorded, and otherwise its fault leaves every byte of `MEM` as it was. -/

namespace Sys2Proof.Machine

/-- The word of `CLRERR`, the one word accepted while a fault is recorded (40_system.md R121), is legal. -/
theorem legalWord_clrerr : LegalWord 0x00000001 :=
  legalWord_of_decode_ok (i := .clrerr) (by decide)

theorem ne_clrerr_of_not_legalWord {w : CmdWord} (hw : ¬ LegalWord w) : w ≠ 0x00000001 :=
  fun heq => hw (heq ▸ legalWord_clrerr)

/-- A fault that leaves the list of written bytes and the draws alone leaves what every byte reads as (R382, R383). -/
theorem Trapped.sameMemory {s t : State} {e : Raised} (h : Trapped s t e) : SameMemory s t := by
  obtain ⟨-, -, -, -, hmem, hdrawn, -⟩ := h
  intro a
  rw [State.readByte, State.readByte, hmem, hdrawn]

/-- What `E_CMD` records of a command word: 1 in `ERRCODE`, the word zero-extended in `ERRINFO` (R384). -/
theorem Trapped.record_of_eCmd {s t : State} {w : CmdWord} (h : Trapped s t ⟨.eCmd, w.toNat⟩) :
    t.errcode = 1 ∧ t.errinfo = w.setWidth 64 := by
  obtain ⟨-, -, hcode, hinfo, -⟩ := h
  exact ⟨hcode, hinfo.trans (BitVec.ofNat_toNat ..)⟩

/-- Settles O5: the clauses of `commandAcceptance` for an illegal word, with what its fault records and leaves
unchanged. -/
theorem illegalWordFaults : Obligations.IllegalWordFaults := by
  unfold Obligations.IllegalWordFaults
  intro s op rest w hhost hissues hidle hw
  obtain ⟨-, hdropped, hillegal, -⟩ := commandAcceptance s op rest w hhost hissues hidle
  refine ⟨fun herr => ?illegal, fun herr => hdropped herr (ne_clrerr_of_not_legalWord hw)⟩
  case illegal =>
    obtain ⟨t, hstep, htrapped⟩ := hillegal herr hw
    obtain ⟨hcode, hinfo⟩ := htrapped.record_of_eCmd
    have hmem : SameMemory { s with host := rest } t := htrapped.sameMemory
    exact ⟨t, hstep, htrapped, hcode, hinfo, hmem⟩

end Sys2Proof.Machine


/-! PROOFS. The encoding of commands (30_encoding.md): decoding the word of a well-formed command gives the command back
(R91, R93), a word that decodes is that word (R96), and the words that decode are the rows of the opcode table. -/

namespace Sys2Proof

/-! ### The parts of `imm8` (R93) -/

theorem immTwoSlots_fields (a b : SlotId) : (immTwoSlots a b).extractLsb' 2 6 = 0
    ∧ (immTwoSlots a b).extractLsb' 0 1 = bitOfSlot a ∧ (immTwoSlots a b).extractLsb' 1 1 = bitOfSlot b := by
  cases a <;> cases b <;> decide

theorem immSlot_fields (a : SlotId) :
    (immSlot a).extractLsb' 1 7 = 0 ∧ (immSlot a).extractLsb' 0 1 = bitOfSlot a := by
  cases a <;> decide

theorem immBlock_fields (bwt mtf : Bool) (codec : BitVec 3) : (immBlock bwt mtf codec).extractLsb' 5 3 = 0
    ∧ (immBlock bwt mtf codec).getLsbD 0 = bwt ∧ (immBlock bwt mtf codec).getLsbD 1 = mtf
    ∧ (immBlock bwt mtf codec).extractLsb' 2 3 = codec := by
  revert bwt mtf codec; decide

/-- `imm8` of `CSETUP`: the slot bit and the type field (R93). -/
def immSetup (slot : SlotId) (type : BitVec 3) : BitVec 8 :=
  (0#4 ++ type ++ bitOfSlot slot : BitVec (4 + 3 + 1))

theorem encode_csetup (slot : SlotId) (type : BitVec 3) (rs1 rs2 : RegIx) :
    encode (.csetup slot type rs1 rs2) = pack 0x10 0 rs1 rs2 (immSetup slot type) := rfl

theorem immSetup_fields (slot : SlotId) (type : BitVec 3) : (immSetup slot type).extractLsb' 4 4 = 0
    ∧ (immSetup slot type).extractLsb' 0 1 = bitOfSlot slot ∧ (immSetup slot type).extractLsb' 1 3 = type := by
  cases slot <;> revert type <;> decide

/-! An `imm8` whose reserved bits are 0 is its parts side by side. -/

theorem immTwoSlots_of_fields : ∀ {imm : BitVec 8}, imm.extractLsb' 2 6 = 0 →
    immTwoSlots (slotOfBit (imm.extractLsb' 0 1)) (slotOfBit (imm.extractLsb' 1 1)) = imm := by
  decide

theorem immSlot_of_fields : ∀ {imm : BitVec 8}, imm.extractLsb' 1 7 = 0 →
    immSlot (slotOfBit (imm.extractLsb' 0 1)) = imm := by
  decide

theorem immBlock_of_fields : ∀ {imm : BitVec 8}, imm.extractLsb' 5 3 = 0 →
    immBlock (imm.getLsbD 0) (imm.getLsbD 1) (imm.extractLsb' 2 3) = imm := by
  decide

theorem immSetup_of_fields : ∀ {imm : BitVec 8}, imm.extractLsb' 4 4 = 0 →
    immSetup (slotOfBit (imm.extractLsb' 0 1)) (imm.extractLsb' 1 3) = imm := by
  decide

/-! ### Decoding what was encoded -/

theorem decode_pack (opc : BitVec 8) (rd rs1 rs2 : RegIx) (imm8 : BitVec 8) :
    decode (pack opc rd rs1 rs2 imm8) = decodeRow (pack opc rd rs1 rs2 imm8) := by
  simp [decode]

theorem decodePlain_pack (i : Instr) (opc : BitVec 8) : decodePlain i (pack opc 0 0 0 0) = .ok i := by
  simp [decodePlain]

theorem decodeTwoSlots_pack (mk : SlotId → SlotId → Instr) (opc : BitVec 8) (a b : SlotId) :
    decodeTwoSlots mk (pack opc 0 0 0 (immTwoSlots a b)) = .ok (mk a b) := by
  obtain ⟨hreserved, ha, hb⟩ := immTwoSlots_fields a b
  simp [decodeTwoSlots, hreserved, ha, hb]

theorem decodeBlock_pack (mk : Bool → Bool → BitVec 3 → Instr) (opc : BitVec 8) (bwt mtf : Bool) {codec : BitVec 3}
    (hcodec : codecLegal codec = true) :
    decodeBlock mk (pack opc 0 0 0 (immBlock bwt mtf codec)) = .ok (mk bwt mtf codec) := by
  obtain ⟨hreserved, hbwt, hmtf, hfield⟩ := immBlock_fields bwt mtf codec
  simp only [decodeBlock, fieldRd_pack, fieldRs1_pack, fieldRs2_pack, fieldImm8_pack, hreserved, hbwt, hmtf, hfield,
    hcodec]
  rfl

/-- Settles O1: the opcode of the word selects the row of the command, whose fields are the operands. -/
theorem decodeOfEncode : Obligations.DecodeOfEncode := by
  unfold Obligations.DecodeOfEncode
  intro i hwf
  cases i with
  | csetup slot type rs1 rs2 =>
    obtain ⟨hreserved, hslot, htype⟩ := immSetup_fields slot type
    simp [encode_csetup, decode_pack, decodeRow, hreserved, hslot, htype]
  | isetup rs1 rs2 => simp [encode, decode_pack, decodeRow]
  | expand rd rs1 dim | remove rd rs1 dim => simp [encode, decode_pack, decodeRow]
  | c2d rd slot | d2c rs1 slot =>
    obtain ⟨hreserved, hslot⟩ := immSlot_fields slot
    simp [encode, decode_pack, decodeRow, hreserved, hslot]
  | cclone a b | reordi a b | reordt a b =>
    simp only [encode, decode_pack, decodeRow, fieldOpc_pack]
    exact decodeTwoSlots_pack ..
  | blkc bwt mtf codec | blkd bwt mtf codec =>
    simp only [encode, decode_pack, decodeRow, fieldOpc_pack]
    exact decodeBlock_pack _ _ bwt mtf hwf
  | _ =>
    simp only [encode, decode_pack, decodeRow, fieldOpc_pack]
    exact decodePlain_pack ..

/-! ### Encoding what was decoded -/

section
variable {w : CmdWord} {i : Instr} {opc : BitVec 8}

/-- A word whose bits 31:28 are 0, from its fields (R91). -/
theorem pack_eq_of_fields {rd rs1 rs2 : RegIx} {imm8 : BitVec 8} (htop : fieldTop w = 0) (hopc : fieldOpc w = opc)
    (hrd : fieldRd w = rd) (hrs1 : fieldRs1 w = rs1) (hrs2 : fieldRs2 w = rs2) (himm : fieldImm8 w = imm8) :
    pack opc rd rs1 rs2 imm8 = w := by
  rw [← hopc, ← hrd, ← hrs1, ← hrs2, ← himm, pack_fields w htop]

theorem pack_of_decodePlain_ok {j : Instr} (htop : fieldTop w = 0) (hopc : fieldOpc w = opc)
    (h : decodePlain j w = .ok i) : i = j ∧ pack opc 0 0 0 0 = w := by
  unfold decodePlain at h
  split_ifs at h with hfields
  obtain ⟨hrd, hrs1, hrs2, himm⟩ := hfields
  exact ⟨(Except.ok.inj h).symm, pack_eq_of_fields htop hopc hrd hrs1 hrs2 himm⟩

theorem pack_of_decodeTwoSlots_ok {mk : SlotId → SlotId → Instr} (htop : fieldTop w = 0) (hopc : fieldOpc w = opc)
    (h : decodeTwoSlots mk w = .ok i) : ∃ a b, i = mk a b ∧ pack opc 0 0 0 (immTwoSlots a b) = w := by
  unfold decodeTwoSlots at h
  split_ifs at h with hfields himm
  obtain ⟨hrd, hrs1, hrs2⟩ := hfields
  exact ⟨_, _, (Except.ok.inj h).symm,
    pack_eq_of_fields htop hopc hrd hrs1 hrs2 (immTwoSlots_of_fields (not_not.mp himm)).symm⟩

theorem pack_of_decodeBlock_ok {mk : Bool → Bool → BitVec 3 → Instr} (htop : fieldTop w = 0)
    (hopc : fieldOpc w = opc) (h : decodeBlock mk w = .ok i) :
    ∃ bwt mtf codec, i = mk bwt mtf codec ∧ codecLegal codec = true
      ∧ pack opc 0 0 0 (immBlock bwt mtf codec) = w := by
  unfold decodeBlock at h
  split_ifs at h with hfields himm hcodec
  obtain ⟨hrd, hrs1, hrs2⟩ := hfields
  exact ⟨_, _, _, (Except.ok.inj h).symm, Bool.of_not_eq_false hcodec,
    pack_eq_of_fields htop hopc hrd hrs1 hrs2 (immBlock_of_fields (not_not.mp himm)).symm⟩

/-- Every row of the decoder gives the one command whose word it is: the shared forms by their lemmas, the others field
by field. -/
theorem encode_of_decodeRow_ok (htop : fieldTop w = 0) (h : decodeRow w = .ok i) :
    i.wellFormed = true ∧ encode i = w := by
  unfold decodeRow at h
  split at h
  case h_3 hopc =>
    split_ifs at h with hrd himm
    obtain rfl := Except.ok.inj h
    exact ⟨rfl, pack_eq_of_fields htop hopc (not_not.mp hrd) rfl rfl (immSetup_of_fields (not_not.mp himm)).symm⟩
  case h_5 hopc =>
    split_ifs at h with hfields
    obtain rfl := Except.ok.inj h
    exact ⟨rfl, pack_eq_of_fields htop hopc hfields.1 rfl rfl hfields.2⟩
  case h_6 hopc | h_7 hopc =>
    split_ifs at h with hrs2
    obtain rfl := Except.ok.inj h
    exact ⟨rfl, pack_eq_of_fields htop hopc rfl rfl (not_not.mp hrs2) rfl⟩
  case h_8 hopc =>
    split_ifs at h with hfields himm
    obtain rfl := Except.ok.inj h
    exact ⟨rfl, pack_eq_of_fields htop hopc rfl hfields.1 hfields.2 (immSlot_of_fields (not_not.mp himm)).symm⟩
  case h_9 hopc =>
    split_ifs at h with hfields himm
    obtain rfl := Except.ok.inj h
    exact ⟨rfl, pack_eq_of_fields htop hopc hfields.1 rfl hfields.2 (immSlot_of_fields (not_not.mp himm)).symm⟩
  case h_4 hopc | h_10 hopc | h_11 hopc =>
    obtain ⟨a, b, rfl, hw⟩ := pack_of_decodeTwoSlots_ok htop hopc h
    exact ⟨rfl, hw⟩
  case h_24 hopc | h_25 hopc =>
    obtain ⟨bwt, mtf, codec, rfl, hcodec, hw⟩ := pack_of_decodeBlock_ok htop hopc h
    exact ⟨hcodec, hw⟩
  case h_26 => cases h
  all_goals
    obtain ⟨rfl, hw⟩ := pack_of_decodePlain_ok htop ‹fieldOpc w = _› h
    exact ⟨rfl, hw⟩

end

/-- Settles O2: row by row, the fields that the command does not name are 0. -/
theorem encodeOfDecode : Obligations.EncodeOfDecode := by
  unfold Obligations.EncodeOfDecode
  intro w i h
  unfold decode at h
  split_ifs at h with htop
  exact encode_of_decodeRow_ok (not_not.mp htop) h

/-- Settles O3: each word is the word of its command. -/
theorem sampleWordsDecode : Obligations.SampleWordsDecode := by
  unfold Obligations.SampleWordsDecode
  have hroundTrip := decodeOfEncode
  exact ⟨hroundTrip (.expand 3 1 1) rfl, hroundTrip (.csetup .s1 4 4 5) rfl, hroundTrip (.blkc true true 5) rfl,
    hroundTrip .clrerr rfl, hroundTrip (.reordi .s0 .s1) rfl, hroundTrip .bwtf rfl⟩

/-! ### The legal words (R96) -/

section
variable {w mask : CmdWord}

open Machine

theorem decodePlain_exists (j : Instr) (hrd : fieldRd w = 0) (hrs1 : fieldRs1 w = 0) (hrs2 : fieldRs2 w = 0)
    (himm : fieldImm8 w = 0) : ∃ i, decodePlain j w = .ok i :=
  ⟨j, if_pos ⟨hrd, hrs1, hrs2, himm⟩⟩

theorem decodeTwoSlots_exists (mk : SlotId → SlotId → Instr) (hrd : fieldRd w = 0) (hrs1 : fieldRs1 w = 0)
    (hrs2 : fieldRs2 w = 0) (himm : (fieldImm8 w).extractLsb' 2 6 = 0) : ∃ i, decodeTwoSlots mk w = .ok i := by
  simp [decodeTwoSlots, hrd, hrs1, hrs2, himm]

theorem decodeBlock_exists (mk : Bool → Bool → BitVec 3 → Instr) (hrd : fieldRd w = 0) (hrs1 : fieldRs1 w = 0)
    (hrs2 : fieldRs2 w = 0) (himm : (fieldImm8 w).extractLsb' 5 3 = 0)
    (hcodec : codecLegal ((fieldImm8 w).extractLsb' 2 3) = true) : ∃ i, decodeBlock mk w = .ok i := by
  simp [decodeBlock, hrd, hrs1, hrs2, himm, hcodec]

/-- A mask acts on each field alone (R91). -/
theorem field_and (w mask : CmdWord) : fieldTop (w &&& mask) = fieldTop w &&& fieldTop mask
    ∧ fieldOpc (w &&& mask) = fieldOpc w &&& fieldOpc mask ∧ fieldRd (w &&& mask) = fieldRd w &&& fieldRd mask
    ∧ fieldRs1 (w &&& mask) = fieldRs1 w &&& fieldRs1 mask ∧ fieldRs2 (w &&& mask) = fieldRs2 w &&& fieldRs2 mask
    ∧ fieldImm8 (w &&& mask) = fieldImm8 w &&& fieldImm8 mask :=
  ⟨BitVec.extractLsb'_and .., BitVec.extractLsb'_and .., BitVec.extractLsb'_and .., BitVec.extractLsb'_and ..,
    BitVec.extractLsb'_and .., BitVec.extractLsb'_and ..⟩

/-- A field that the mask covers is 0. -/
theorem eq_zero_of_covered {n : Nat} {x : BitVec n} (h : 0 = x &&& BitVec.allOnes n) : x = 0 :=
  (BitVec.and_allOnes (x := x)).symm.trans h.symm

/-- The bits of an `imm8` from `k` on are 0 when it has nothing in common with their mask. -/
theorem eq_zero_of_coveredFrom {imm8 : BitVec 8} {k : Nat} (h : 0 = imm8 &&& (BitVec.allOnes 8 <<< k)) :
    imm8.extractLsb' k (8 - k) = 0 := by
  apply BitVec.eq_of_getLsbD_eq
  intro j hj
  have hbit := congrArg (fun x => x.getLsbD (k + j)) h.symm
  have hlt : k + j < 8 := by omega
  simp only [BitVec.getLsbD_and, BitVec.getLsbD_shiftLeft, BitVec.getLsbD_allOnes, hlt, decide_true,
    Nat.add_sub_cancel_left, show ¬ k + j < k by omega, decide_false, Bool.not_false,
    show j < 8 by omega, Bool.and_true] at hbit
  simp [hj, hbit]

/-- A word that a row of the table matches decodes: the row's mask covers every field the command does not use. -/
theorem decode_ok_of_legalWord (h : LegalWord w) : ∃ i, decode w = .ok i := by
  obtain ⟨row, hrow, hmatch, hcodec⟩ := h
  obtain ⟨htop, hopc, hrd, hrs1, hrs2, himm⟩ := field_and w row.2
  rw [extractLsb'_codec, ← codecLegal_iff] at hcodec
  rw [hmatch] at htop hopc hrd hrs1 hrs2 himm
  have hfixed : ∀ r ∈ opcodeRows, fieldTop r.2 = BitVec.allOnes 4 ∧ fieldOpc r.2 = BitVec.allOnes 8
      ∧ fieldTop r.1 = 0 ∧ fieldRd r.1 = 0 ∧ fieldRs1 r.1 = 0 ∧ fieldRs2 r.1 = 0 ∧ fieldImm8 r.1 = 0 := by
    simp [opcodeRows, fieldTop, fieldOpc, fieldRd, fieldRs1, fieldRs2, fieldImm8]
  obtain ⟨htopMask, hopcMask, htop0, hrd0, hrs10, hrs20, himm0⟩ := hfixed row hrow
  rw [htop0, htopMask] at htop
  rw [hopcMask, BitVec.and_allOnes] at hopc
  rw [hrd0] at hrd
  rw [hrs10] at hrs1
  rw [hrs20] at hrs2
  rw [himm0] at himm
  have hdecode : decode w = decodeRow w := by rw [decode, eq_zero_of_covered htop, if_neg (by simp)]
  rw [hdecode, decodeRow, ← hopc]
  simp only [opcodeRows, List.mem_cons, List.not_mem_nil, or_false] at hrow
  rcases hrow with rfl | rfl | rfl | rfl | rfl | rfl | rfl | rfl | rfl | rfl | rfl | rfl | rfl | rfl | rfl | rfl | rfl
    | rfl | rfl | rfl | rfl | rfl | rfl | rfl | rfl
  iterate 2
    exact decodePlain_exists _ (eq_zero_of_covered hrd) (eq_zero_of_covered hrs1) (eq_zero_of_covered hrs2)
      (eq_zero_of_covered himm)
  · exact ⟨_, (if_neg (not_not.mpr (eq_zero_of_covered hrd))).trans
      (if_neg (not_not.mpr (eq_zero_of_coveredFrom (k := 4) himm)))⟩
  · exact decodeTwoSlots_exists _ (eq_zero_of_covered hrd) (eq_zero_of_covered hrs1) (eq_zero_of_covered hrs2)
      (eq_zero_of_coveredFrom (k := 2) himm)
  · exact ⟨_, if_neg (not_not.mpr ⟨eq_zero_of_covered hrd, eq_zero_of_covered himm⟩)⟩
  iterate 2 exact ⟨_, if_neg (not_not.mpr (eq_zero_of_covered hrs2))⟩
  · exact ⟨_, (if_neg (not_not.mpr ⟨eq_zero_of_covered hrs1, eq_zero_of_covered hrs2⟩)).trans
      (if_neg (not_not.mpr (eq_zero_of_coveredFrom (k := 1) himm)))⟩
  · exact ⟨_, (if_neg (not_not.mpr ⟨eq_zero_of_covered hrd, eq_zero_of_covered hrs2⟩)).trans
      (if_neg (not_not.mpr (eq_zero_of_coveredFrom (k := 1) himm)))⟩
  iterate 2
    exact decodeTwoSlots_exists _ (eq_zero_of_covered hrd) (eq_zero_of_covered hrs1) (eq_zero_of_covered hrs2)
      (eq_zero_of_coveredFrom (k := 2) himm)
  iterate 12
    exact decodePlain_exists _ (eq_zero_of_covered hrd) (eq_zero_of_covered hrs1) (eq_zero_of_covered hrs2)
      (eq_zero_of_covered himm)
  iterate 2
    exact decodeBlock_exists _ (eq_zero_of_covered hrd) (eq_zero_of_covered hrs1) (eq_zero_of_covered hrs2)
      (eq_zero_of_coveredFrom (k := 5) himm) (hcodec (by simp))

end

/-- Settles O4: each row fixes the opcode and covers the fields that the decoder wants 0, and conversely. -/
theorem legalWordsDecode : Obligations.LegalWordsDecode := by
  unfold Obligations.LegalWordsDecode
  exact fun w => ⟨fun ⟨_, h⟩ => Machine.legalWord_of_decode_ok h, decode_ok_of_legalWord⟩

end Sys2Proof


/-! PROOFS. What a command can do (60_exceptions.md R382, R383; 10_state.md R43): it raises a fault, loses its output
region and raises a fault, or completes; from this the end of every command (40_system.md R122), the frame of a fault,
the frame of a completion and the invariant of the machine. -/

namespace Sys2Proof.Machine

/-! ### The common checks and their failure (20_memory.md R66) -/

section
variable {i : Instr} {s : State}

theorem outputCheck_ok : outputCheck i s = .ok () ↔
    (hasOutput i = true → s.OutputReady ∧ ∀ n, inputBytes i s = some n → s.Disjoint n) := by
  cases hout : hasOutput i with
  | false => simp [outputCheck, hout, pure, Except.pure]
  | true =>
    rw [outputCheck_of_hasOutput hout, bind_unit_ok, State.checkOut_ok]
    cases hin : inputBytes i s with
    | none => simp [overlapCheck, hin, pure, Except.pure]
    | some n => simp [overlapCheck_of_some hin, State.checkOverlap_ok]

/-- The checks of a command pass exactly when none of them fails. -/
theorem commonChecks_ok : commonChecks i s = .ok () ↔ ¬ FailsCommonCheck i s := by
  rw [commonChecks, bind_unit_ok, bind_unit_ok, ewCheck_ok, inputCheck_ok, outputCheck_ok, FailsCommonCheck]
  simp only [not_or, not_and, not_not, not_exists]
  exact ⟨fun ⟨hew, hin, hout⟩ => ⟨hew, hin, fun h => (hout h).1, fun h => (hout h).2⟩,
    fun ⟨hew, hin, hpb, hdisjoint⟩ => ⟨hew, hin, fun h => ⟨hpb h, hdisjoint h⟩⟩⟩

theorem outputReady_of_commonChecks_ok (h : commonChecks i s = .ok ()) (hout : hasOutput i = true) :
    s.OutputReady := by
  rw [commonChecks_ok, FailsCommonCheck, not_or, not_or, not_or] at h
  obtain ⟨-, -, hpb, -⟩ := h
  exact not_not.mp fun hn => hpb ⟨hout, hn⟩

theorem inputReady_of_commonChecks_ok {n : Nat} (h : commonChecks i s = .ok ()) (hin : inputBytes i s = some n) :
    s.InputReady n := by
  rw [commonChecks_ok, FailsCommonCheck, not_or, not_or] at h
  obtain ⟨-, hready, -⟩ := h
  exact not_not.mp fun hn => hready ⟨n, hin, hn⟩

end

/-! ### Which result registers a command writes (10_state.md R43) -/

def writesUsed : Instr → Bool
  | .blkd _ _ _ => true
  | _ => false

def writesPidx : Instr → Bool
  | .bwtf => true
  | .blkc bwt _ _ => bwt
  | .blkd bwt _ _ => bwt
  | _ => false

def writesBounds : Instr → Bool
  | .mtfe => true
  | .blkc _ mtf _ => mtf
  | .blkd _ mtf _ => mtf
  | _ => false

def writesPadb : Instr → Bool
  | .hufe => true
  | .lzwe => true
  | .blkc _ _ codec => codec == 2 || codec == 5
  | .blkd _ _ codec => codec == 2 || codec == 5
  | _ => false

/-- The result of the command sets only result registers that the command writes. -/
structure WritesOnly (i : Instr) (b : BulkResult) : Prop where
  used : writesUsed i = false → b.used = none
  pidx : writesPidx i = false → b.pidx = none
  vmin : writesBounds i = false → b.vmin = none
  vmax : writesBounds i = false → b.vmax = none
  padb : writesPadb i = false → b.padb = none

theorem writesOnly_plainResult (i : Instr) (out : List Byte) : WritesOnly i (plainResult out) :=
  ⟨fun _ => rfl, fun _ => rfl, fun _ => rfl, fun _ => rfl, fun _ => rfl⟩

/-- A computation that succeeds is each of its steps succeeding. -/
theorem bind_ok {α β : Type} {x : Except Raised α} {f : α → Except Raised β} {v : β} :
    (x >>= f) = .ok v ↔ ∃ a, x = .ok a ∧ f a = .ok v := by
  cases x <;> simp [bind, Except.bind]

/-- The codecs with a padding count are `HUFFMAN` and `LZW` (49_block_container.md R352). -/
theorem codecPads_of_codecOf : ∀ {codec : BitVec 3} {c : Codec}, codecOf codec = some c →
    codecPads c = (codec == 2 || codec == 5) := by
  have hall : ∀ codec : BitVec 3, (codecOf codec).all (fun c => codecPads c == (codec == 2 || codec == 5)) = true := by
    decide
  intro codec c hc
  have h := hall codec
  rw [hc] at h
  exact beq_iff_eq.mp h

theorem stageCodec_pad {c : Codec} {maxlen ew : Nat} {xs : List Nat} {pay : List Byte} {pad : Option Nat}
    (h : stageCodec c maxlen ew xs = .ok (pay, pad)) (hc : codecPads c = false) : pad = none := by
  cases c with
  | none | rle => cases h; rfl
  | huffman | lzw => cases hc

/-- The registers of a block that `BLKC` computes are those of its stages (R357). -/
theorem writesOnly_blockCompress {bwt mtf : Bool} {codec : BitVec 3} {c : Codec} (hc : codecOf codec = some c)
    {amax maxlen ew : Nat} {xs : List Nat} {b : BulkResult}
    (h : blockCompress bwt mtf c amax maxlen ew xs = .ok b) : WritesOnly (.blkc bwt mtf codec) b := by
  unfold blockCompress at h
  obtain ⟨-, -, h⟩ := bind_ok.mp h
  obtain ⟨⟨s2, range⟩, hmtf, h⟩ := bind_ok.mp h
  obtain ⟨⟨pay, pad⟩, hcodec, h⟩ := bind_ok.mp h
  obtain ⟨-, -, h⟩ := bind_ok.mp h
  cases h
  have hrange : mtf = false → range = none := fun hoff => by
    subst hoff
    cases hmtf
    rfl
  refine ⟨fun _ => rfl, fun hoff => ?_, fun hoff => ?_, fun hoff => ?_, fun hoff => ?_⟩
  · obtain rfl : bwt = false := hoff
    rfl
  · simp [hrange hoff]
  · simp [hrange hoff]
  · exact stageCodec_pad hcodec ((codecPads_of_codecOf hc).trans hoff)

/-- The registers of a block that `BLKD` computes are `USED` and those of its stages (R360). -/
theorem writesOnly_blockExpand {bwt mtf : Bool} {codec : BitVec 3} {c : Codec} (hc : codecOf codec = some c)
    {amax maxlen ew : Nat} {bytes : List Byte} {b : BulkResult}
    (h : blockExpand bwt mtf c amax maxlen ew bytes = .ok b) : WritesOnly (.blkd bwt mtf codec) b := by
  unfold blockExpand at h
  obtain ⟨-, -, h⟩ := bind_ok.mp h
  obtain ⟨-, -, h⟩ := bind_ok.mp h
  obtain ⟨s1, -, h⟩ := bind_ok.mp h
  obtain ⟨s2, -, h⟩ := bind_ok.mp h
  obtain ⟨s3, -, h⟩ := bind_ok.mp h
  cases h
  have hpads := codecPads_of_codecOf hc
  refine ⟨nofun, fun hoff => ?_, fun hoff => ?_, fun hoff => ?_, fun hoff => ?_⟩
  · exact if_neg (ne_true_of_eq_false hoff)
  · exact if_neg (ne_true_of_eq_false hoff)
  · exact if_neg (ne_true_of_eq_false hoff)
  · exact if_neg (ne_true_of_eq_false (hpads.trans hoff))

/-! ### The lengths of the reorder commands' results -/

theorem length_of_followCycle_ok {pi : Nat → Nat} {len start fuel cur carry : Nat} {d d' : List Nat × List Bool}
    (h : followCycle pi len start fuel cur carry d = .ok d') : d'.1.length = d.1.length := by
  induction fuel generalizing cur carry d with
  | zero => cases h; rfl
  | succ fuel ih =>
    rw [followCycle] at h
    dsimp only at h
    split_ifs at h with hrange hclose
    · cases h
      exact List.length_set
    · exact (ih h).trans List.length_set

theorem length_of_followCycles_ok {pi : Nat → Nat} {len : Nat} {starts : List Nat} {d d' : List Nat × List Bool}
    (h : followCycles pi len starts d = .ok d') : d'.1.length = d.1.length := by
  induction starts generalizing d with
  | nil => cases h; rfl
  | cons start starts ih =>
    rw [followCycles] at h
    split_ifs at h with hvisited
    · exact ih h
    · split at h
      · cases h
      case h_2 d'' hcycle => exact (ih h).trans (length_of_followCycle_ok hcycle)

/-- Cycle following keeps the number of elements, whatever the targets are. -/
theorem length_of_cycleFollow_ok {pi : Nat → Nat} {data out : List Nat} (h : cycleFollow pi data = .ok out) :
    out.length = data.length := by
  unfold cycleFollow at h
  split at h
  · cases h
  case h_2 d hcycles =>
    cases h
    exact length_of_followCycles_ok hcycles

theorem length_of_scatterFrom_ok {pi : Nat → Nat} {len i : Nat} {xs temp out : List Nat}
    (h : scatterFrom pi len i xs temp = .ok out) : out.length = temp.length := by
  induction xs generalizing i temp with
  | nil => cases h; rfl
  | cons x xs ih =>
    rw [scatterFrom] at h
    split_ifs at h
    exact (ih h).trans List.length_set

/-- Scattering keeps the number of elements, whatever the targets are. -/
theorem length_of_scatter_ok {pi : Nat → Nat} {data out : List Nat} (h : scatter pi data = .ok out) :
    out.length = data.length :=
  (length_of_scatterFrom_ok h).trans List.length_replicate

/-! ### Completion -/

/-- The state after a bulk command with an output region completed. -/
def BulkCompletion (i : Instr) (s t : State) : Prop :=
  ∃ b : BulkResult, commonChecks i s = .ok () ∧ b.out.length ≤ s.cap.toNat ∧ WritesOnly i b ∧ t = s.complete b

/-- The state after a reorder command completed. -/
def ReorderCompletion (src dst : SlotId) (s t : State) : Prop :=
  ∃ xs : List Nat, commonChecks (.reordi src dst) s = .ok () ∧ xs.length = s.len.toNat
    ∧ t = { s.writeBytes s.pa.toNat (serialize s.ew.toNat xs) with olen := 0 }

/-- What completion of each command can leave behind. -/
def Completion (i : Instr) (s t : State) : Prop :=
  match i with
  | .nop => t = s
  | .clrerr => t = s.clearErr
  | .csetup slot type rs1 rs2 => ∃ k, csetupSlot type (s.reg rs1).toNat (s.reg rs2).toNat = .ok k ∧ t = s.setSlot slot k
  | .cclone dst src => t = s.setSlot dst (s.slot src)
  | .isetup rs1 rs2 => ∃ k, isetupConfig (s.reg rs1).toNat (s.reg rs2).toNat = .ok k ∧ t = { s with icfg := k }
  | .expand rd _ _ => ∃ v, t = s.setReg rd v
  | .remove rd _ _ => ∃ v, t = s.setReg rd v
  | .c2d rd _ => ∃ v, t = s.setReg rd v
  | .d2c rs1 slot => (s.slot slot).valid = true ∧ (s.reg rs1).toNat < slotTotal (s.slot slot)
    ∧ t = s.setCoords (distToCoords (s.slot slot).type (s.reg rs1).toNat (s.slot slot).n.toNat (s.slot slot).l.toNat)
  | .reordi src dst => ReorderCompletion src dst s t
  | .reordt src dst => ReorderCompletion src dst s t
  | .hdru => ∃ h n, t = { s with hdr := h, olen := 0, used := n }
  | i => BulkCompletion i s t

/-- The three ends of a command: a fault that leaves `MEM` as it was, a fault past the common checks of a command with
an output region, and completion. -/
def ExecEnds (i : Instr) (s t : State) : Prop :=
  (∃ e, t = s.raise e) ∨ (∃ e, hasOutput i = true ∧ commonChecks i s = .ok () ∧ t = s.loseOutput.raise e)
    ∨ Completion i s t

section
variable {i : Instr} {s t : State}

theorem bulkEnds {checks : Except Raised Unit} {result : Unit → Except Raised BulkResult}
    (h : s.finishBulk checks result = .next t) (hout : hasOutput i = true) (hchecks : commonChecks i s = checks)
    (hwrites : ∀ b, result () = .ok b → WritesOnly i b) :
    (∃ e, t = s.raise e) ∨ (∃ e, hasOutput i = true ∧ commonChecks i s = .ok () ∧ t = s.loseOutput.raise e)
      ∨ BulkCompletion i s t := by
  obtain ⟨e, -, ht⟩ | ⟨hok, e, -, ht⟩ | ⟨hok, b, hb, hfits, ht⟩ := State.finishBulk_cases h
  · exact .inl ⟨e, Host.Outcome.next.inj ht⟩
  · exact .inr (.inl ⟨e, hout, hchecks.trans hok, Host.Outcome.next.inj ht⟩)
  · exact .inr (.inr ⟨b, hchecks.trans hok, hfits, hwrites b hb, Host.Outcome.next.inj ht⟩)

theorem reorderEnds {src dst : SlotId} {move : CurveSlot × CurveSlot → Except Raised (List Nat)}
    (h : s.finishReorder (s.reorderChecks src dst >>= move) = .next t)
    (hlen : ∀ c out, move c = .ok out → out.length = s.inElems.length) :
    (∃ e, t = s.raise e) ∨ ReorderCompletion src dst s t := by
  obtain ⟨e, -, ht⟩ | ⟨xs, hxs, ht⟩ := State.finishReorder_cases h
  · exact .inl ⟨e, Host.Outcome.next.inj ht⟩
  · obtain ⟨c, hchecks, hmove⟩ := bind_ok.mp hxs
    rw [State.reorderChecks_eq_bind] at hchecks
    obtain ⟨⟨⟩, hcommon, -⟩ := bind_ok.mp hchecks
    exact .inr ⟨xs, hcommon, (hlen c xs hmove).trans s.length_inElems, Host.Outcome.next.inj ht⟩

/-- What a command can do, said once for every command. -/
theorem exec_ends (h : exec i s = .next t) : ExecEnds i s t := by
  have hfault : ∀ {e}, s.trap e = .next t → ∃ e, t = s.raise e := fun h => ⟨_, (Host.Outcome.next.inj h).symm⟩
  unfold ExecEnds
  cases i with
  | nop | clrerr => exact .inr (.inr (Host.Outcome.next.inj h).symm)
  | csetup slot type rs1 rs2 =>
    simp only [exec, execCsetup] at h
    split at h
    · exact .inl (hfault h)
    case h_2 k hk => exact .inr (.inr ⟨k, hk, (Host.Outcome.next.inj h).symm⟩)
  | cclone dst src =>
    simp only [exec, execCclone] at h
    split at h
    · exact .inl (hfault h)
    case h_2 k hk =>
      obtain ⟨-, rfl⟩ := State.checkSlot_ok.mp hk
      exact .inr (.inr (Host.Outcome.next.inj h).symm)
  | isetup rs1 rs2 =>
    simp only [exec, execIsetup] at h
    split at h
    · exact .inl (hfault h)
    case h_2 k hk => exact .inr (.inr ⟨k, hk, (Host.Outcome.next.inj h).symm⟩)
  | expand rd rs1 dim | remove rd rs1 dim =>
    simp only [exec, execExpand, execRemove] at h
    split at h
    · exact .inl (hfault h)
    · exact .inr (.inr ⟨_, (Host.Outcome.next.inj h).symm⟩)
  | c2d rd slot =>
    simp only [exec, execC2d] at h
    split at h
    · exact .inl (hfault h)
    · split at h
      · exact .inl (hfault h)
      · exact .inr (.inr ⟨_, (Host.Outcome.next.inj h).symm⟩)
  | d2c rs1 slot =>
    simp only [exec, execD2c] at h
    split at h
    · exact .inl (hfault h)
    case h_2 k hk =>
      obtain ⟨hvalid, rfl⟩ := State.checkSlot_ok.mp hk
      split_ifs at h with hrange
      · exact .inl (hfault h)
      · exact .inr (.inr ⟨hvalid, Nat.lt_of_not_le hrange, (Host.Outcome.next.inj h).symm⟩)
  | reordi src dst => exact (reorderEnds h fun _ _ => length_of_cycleFollow_ok).imp_right .inr
  | reordt src dst => exact (reorderEnds h fun _ _ => length_of_scatter_ok).imp_right .inr
  | hdru =>
    simp only [exec, execHdru] at h
    split at h
    · exact .inl (hfault h)
    · exact .inr (.inr ⟨_, _, (Host.Outcome.next.inj h).symm⟩)
  | bwtf =>
    unfold exec execBwtf at h
    refine bulkEnds (i := .bwtf) h rfl (commonChecks_eq_typed rfl rfl rfl) fun b hb => ?_
    cases hb
    exact ⟨fun _ => rfl, nofun, fun _ => rfl, fun _ => rfl, fun _ => rfl⟩
  | mtfe =>
    unfold exec execMtfe at h
    refine bulkEnds (i := .mtfe) h rfl (commonChecks_eq_typed rfl rfl rfl) fun b hb => ?_
    obtain ⟨c, -, hb⟩ := bind_ok.mp hb
    cases hb
    exact ⟨fun _ => rfl, fun _ => rfl, nofun, nofun, fun _ => rfl⟩
  | hufe =>
    unfold exec execHufe at h
    refine bulkEnds (i := .hufe) h rfl (commonChecks_eq_byte rfl rfl rfl) fun b hb => ?_
    obtain ⟨c, -, hb⟩ := bind_ok.mp hb
    cases hb
    exact ⟨fun _ => rfl, fun _ => rfl, fun _ => rfl, fun _ => rfl, nofun⟩
  | lzwe =>
    unfold exec execLzwe at h
    refine bulkEnds (i := .lzwe) h rfl (commonChecks_eq_byte rfl rfl rfl) fun b hb => ?_
    cases hb
    exact ⟨fun _ => rfl, fun _ => rfl, fun _ => rfl, fun _ => rfl, nofun⟩
  | rlee =>
    unfold exec execRlee at h
    refine bulkEnds (i := .rlee) h rfl (commonChecks_eq_typed rfl rfl rfl) fun b hb => ?_
    cases hb
    exact writesOnly_plainResult ..
  | bwti =>
    unfold exec execBwti at h
    refine bulkEnds (i := .bwti) h rfl (commonChecks_eq_typed rfl rfl rfl) fun b hb => ?_
    obtain ⟨xs, -, hb⟩ := bind_ok.mp hb
    cases hb
    exact writesOnly_plainResult ..
  | mtfd =>
    unfold exec execMtfd at h
    refine bulkEnds (i := .mtfd) h rfl (commonChecks_eq_typed rfl rfl rfl) fun b hb => ?_
    obtain ⟨-, -, hb⟩ := bind_ok.mp hb
    obtain ⟨xs, -, hb⟩ := bind_ok.mp hb
    cases hb
    exact writesOnly_plainResult ..
  | rled =>
    unfold exec execRled at h
    refine bulkEnds (i := .rled) h rfl (commonChecks_eq_typed rfl rfl rfl) fun b hb => ?_
    obtain ⟨xs, -, hb⟩ := bind_ok.mp hb
    cases hb
    exact writesOnly_plainResult ..
  | hufd =>
    unfold exec execHufd at h
    refine bulkEnds (i := .hufd) h rfl (commonChecks_eq_byte rfl rfl rfl) fun b hb => ?_
    obtain ⟨xs, -, hb⟩ := bind_ok.mp hb
    cases hb
    exact writesOnly_plainResult ..
  | lzwd =>
    unfold exec execLzwd at h
    refine bulkEnds (i := .lzwd) h rfl (commonChecks_eq_byte rfl rfl rfl) fun b hb => ?_
    obtain ⟨xs, -, hb⟩ := bind_ok.mp hb
    cases hb
    exact writesOnly_plainResult ..
  | hdrp =>
    unfold exec execHdrp at h
    refine bulkEnds (i := .hdrp) h rfl commonChecks_hdrp fun b hb => ?_
    obtain ⟨-, -, hb⟩ := bind_ok.mp hb
    split_ifs at hb
    · obtain ⟨_, -, hb⟩ := bind_ok.mp hb
      cases Except.ok.inj hb
      exact writesOnly_plainResult ..
    · cases Except.ok.inj hb
      exact writesOnly_plainResult ..
  | blkc bwt mtf codec =>
    cases hc : codecOf codec with
    | none =>
      simp only [exec, execBlkc, hc] at h
      exact .inl (hfault h)
    | some c =>
      rw [exec_blkc hc] at h
      exact bulkEnds (i := .blkc bwt mtf codec) h rfl (commonChecks_eq_typed rfl rfl rfl) fun b hb =>
        writesOnly_blockCompress hc hb
  | blkd bwt mtf codec =>
    cases hc : codecOf codec with
    | none =>
      simp only [exec, execBlkd, hc] at h
      exact .inl (hfault h)
    | some c =>
      rw [exec_blkd hc] at h
      exact bulkEnds (i := .blkd bwt mtf codec) h rfl (commonChecks_eq_typed rfl rfl rfl) fun b hb =>
        writesOnly_blockExpand hc hb

/-! ### What completion leaves alone -/

/-- The fault registers and `BUSY` are the same. -/
def SameFaultRecord (s t : State) : Prop :=
  t.err = s.err ∧ t.errcode = s.errcode ∧ t.errinfo = s.errinfo ∧ t.busy = s.busy

/-- Every command but `CLRERR` completes with the fault registers as they were (R122). -/
theorem Completion.sameFaultRecord (h : Completion i s t) (hi : i ≠ .clrerr) : SameFaultRecord s t := by
  cases i with
  | clrerr => exact absurd rfl hi
  | nop =>
    obtain rfl : t = s := h
    exact ⟨rfl, rfl, rfl, rfl⟩
  | csetup slot type rs1 rs2 =>
    obtain ⟨k, -, rfl⟩ := h
    simp [SameFaultRecord]
  | cclone dst src =>
    obtain rfl : t = _ := h
    simp [SameFaultRecord]
  | isetup rs1 rs2 =>
    obtain ⟨k, -, rfl⟩ := h
    exact ⟨rfl, rfl, rfl, rfl⟩
  | expand rd rs1 dim | remove rd rs1 dim | c2d rd slot =>
    obtain ⟨v, rfl⟩ := h
    exact ⟨rfl, rfl, rfl, rfl⟩
  | d2c rs1 slot =>
    obtain ⟨-, -, rfl⟩ := h
    simp [SameFaultRecord]
  | reordi src dst | reordt src dst =>
    obtain ⟨xs, -, -, rfl⟩ := h
    exact ⟨rfl, rfl, rfl, rfl⟩
  | hdru =>
    obtain ⟨w, n, rfl⟩ := h
    exact ⟨rfl, rfl, rfl, rfl⟩
  | _ =>
    obtain ⟨b, -, -, -, rfl⟩ := h
    exact ⟨rfl, rfl, rfl, rfl⟩

theorem Completion.err_eq_false (h : Completion i s t) (herr : s.err = false) : t.err = false := by
  by_cases hi : i = .clrerr
  · subst hi
    obtain rfl : t = s.clearErr := h
    rfl
  · exact (h.sameFaultRecord hi).1.trans herr

/-! ### Every command ends (40_system.md R122) -/

theorem ExecEnds.endsProperly (h : ExecEnds i s t) (hi : i ≠ .clrerr) : EndsProperly s t := by
  obtain ⟨e, rfl⟩ | ⟨e, -, -, rfl⟩ | h := h
  · exact .inr ⟨rfl, rfl, e.code, rfl⟩
  · exact .inr ⟨rfl, rfl, e.code, rfl⟩
  · exact .inl (h.sameFaultRecord hi)

/-! ### What a fault changes (60_exceptions.md R383) -/

/-- Settles O16: of the three ends of a command, the one without a fault leaves `ERR` 0, and the one that touches `MEM` is
past the common checks of a command with an output region. -/
theorem faultFrame : Obligations.FaultFrame := by
  unfold Obligations.FaultFrame
  intro i s t herr hexec hfault
  obtain ⟨e, rfl⟩ | ⟨e, hout, hchecks, rfl⟩ | hdone := exec_ends hexec
  · exact ⟨rfl, fun _ _ => rfl, fun _ _ => rfl, fun _ _ => rfl⟩
  · refine ⟨s.sameBesidesFault_loseOutput e, fun a ha => s.readByte_loseOutput a ha, fun hno => ?_, fun hfails => ?_⟩
    · exact absurd hout (ne_true_of_eq_false hno)
    · exact absurd hfails (commonChecks_ok.mp hchecks)
  · exact absurd hfault (ne_true_of_eq_false (hdone.err_eq_false herr))

/-! ### What a completion changes (10_state.md R43) -/

theorem State.setSlot_slot (s : State) (k : SlotId) : s.setSlot k (s.slot k) = s := by cases k <;> rfl

theorem State.setSlot_setSlot (s : State) (k : SlotId) (v w : CurveSlot) :
    (s.setSlot k v).setSlot k w = s.setSlot k w := by
  cases k <;> rfl

theorem State.setReg_setReg (s : State) (i : RegIx) (v w : Word) : (s.setReg i v).setReg i w = s.setReg i w := by
  simp [State.setReg]

theorem State.setReg_reg (s : State) (i : RegIx) : s.setReg i (s.reg i) = s := by
  have hr : s.r.set i.toNat (s.reg i) i.isLt = s.r := by
    apply Vector.ext
    intro j hj
    rw [Vector.getElem_set]
    split_ifs with h
    · subst h; rfl
    · rfl
  rw [State.setReg, hr]

theorem State.getElem_setCoords_coords (s : State) (v : List Nat) {j : Nat} (hj : j < 64) :
    (s.setCoords v).coords[j] = if h : j < v.length then BitVec.ofNat 32 v[j] else s.coords[j] := by
  have hcoord : ∀ t : State, t.coord j = t.coords[j] := fun t => dif_pos hj
  rw [← hcoord, s.coord_setCoords v j hj, hcoord]

theorem State.setCoords_eq (s : State) (v : List Nat) : s.setCoords v = { s with coords := (s.setCoords v).coords } := by
  unfold State.setCoords; rfl

/-- Writing back the coordinates that `D2C` overwrote. -/
theorem State.setCoords_restore (s : State) {v : List Nat} {n : Nat} (hlen : v.length ≤ n) :
    (s.setCoords v).setCoords (s.coordList n) = s := by
  have hcoords : ((s.setCoords v).setCoords (s.coordList n)).coords = s.coords := by
    refine Vector.ext fun j hj => ?_
    have hcoord : s.coord j = s.coords[j] := dif_pos hj
    have hlist : (s.coordList n).length = n := by simp [State.coordList]
    rw [State.getElem_setCoords_coords _ _ hj, State.getElem_setCoords_coords _ _ hj]
    split_ifs with hn hv
    · simp [State.coordList, hcoord]
    · omega
    · rfl
  rw [State.setCoords_eq, hcoords, State.setCoords_eq s v]

theorem undoWritten_complete {b : BulkResult} (hi : hasOutput i = true) (hw : WritesOnly i b) :
    undoWritten i s (s.complete b) = s := by
  obtain ⟨hused, hpidx, hvmin, hvmax, hpadb⟩ := hw
  cases i with
  | blkc bwt mtf codec =>
    have hpad : (if codec = 2 ∨ codec = 5 then s.padb else updateWord s.padb b.padb) = s.padb := by
      split_ifs with hc
      · rfl
      · rw [hpadb (by simpa [writesPadb] using hc), updateWord_none]
    simp only [undoWritten, State.complete, hpad, hused rfl, updateWord_none]
    cases bwt <;> cases mtf <;> simp_all [writesPidx, writesBounds]
  | blkd bwt mtf codec =>
    have hpad : (if codec = 2 ∨ codec = 5 then s.padb else updateWord s.padb b.padb) = s.padb := by
      split_ifs with hc
      · rfl
      · rw [hpadb (by simpa [writesPadb] using hc), updateWord_none]
    simp only [undoWritten, State.complete, hpad]
    cases bwt <;> cases mtf <;> simp_all [writesPidx, writesBounds]
  | bwtf | bwti | mtfe | mtfd | hufe | hufd | lzwe | lzwd | rlee | rled | hdrp =>
    simp_all [undoWritten, State.complete, writesUsed, writesPidx, writesBounds, writesPadb]
  | _ => cases hi

/-- A legal slot has coordinates below its dimension count only. -/
theorem length_distToCoords {k : CurveSlot} (hk : LegalCurve k.type k.n.toNat k.l.toNat) {d : Nat}
    (hd : d < slotTotal k) : (distToCoords k.type d k.n.toNat k.l.toNat).length = k.n.toNat :=
  ((curvesAreBijections _ _ _ hk).1 d hd).1

/-- With the registers of the table and `MEM` put back, a completed command leaves the state as it was. -/
theorem Completion.undoWritten_eq (h : Completion i s t) (hslots : ∀ k, SlotOk (s.slot k)) : undoWritten i s t = s := by
  cases i with
  | nop =>
    obtain rfl : t = s := h
    rfl
  | clrerr =>
    obtain rfl : t = s.clearErr := h
    rfl
  | csetup slot type rs1 rs2 =>
    obtain ⟨k, -, rfl⟩ := h
    exact (s.setSlot_setSlot _ _ _).trans (s.setSlot_slot _)
  | cclone dst src =>
    obtain rfl : t = _ := h
    exact (s.setSlot_setSlot _ _ _).trans (s.setSlot_slot _)
  | isetup rs1 rs2 =>
    obtain ⟨k, -, rfl⟩ := h
    rfl
  | expand rd rs1 dim | remove rd rs1 dim | c2d rd slot =>
    obtain ⟨v, rfl⟩ := h
    exact (s.setReg_setReg _ _ _).trans (s.setReg_reg _)
  | d2c rs1 slot =>
    obtain ⟨hvalid, hd, rfl⟩ := h
    exact s.setCoords_restore (length_distToCoords (hslots slot hvalid) hd).le
  | reordi src dst | reordt src dst =>
    obtain ⟨xs, -, -, rfl⟩ := h
    rfl
  | hdru =>
    obtain ⟨w, n, rfl⟩ := h
    rfl
  | _ =>
    obtain ⟨b, -, -, hw, rfl⟩ := h
    exact undoWritten_complete rfl hw

theorem BulkCompletion.readByte (h : BulkCompletion i s t) {a : Nat}
    (ha : ¬ (s.pb.toNat ≤ a ∧ a < s.pb.toNat + t.olen.toNat)) : t.readByte a = s.readByte a := by
  obtain ⟨b, -, hfits, -, rfl⟩ := h
  have holen : (s.complete b).olen.toNat = b.out.length := by
    have := s.cap.isLt
    rw [State.complete_olen, BitVec.toNat_ofNat, Nat.mod_eq_of_lt (by omega)]
  rw [holen] at ha
  rw [State.readByte_complete, if_neg ha]

theorem ReorderCompletion.readByte {src dst : SlotId} (h : ReorderCompletion src dst s t) {a : Nat}
    (ha : ¬ (s.pa.toNat ≤ a ∧ a < s.pa.toNat + s.len.toNat * s.ew.toNat)) : t.readByte a = s.readByte a := by
  obtain ⟨xs, -, hlen, rfl⟩ := h
  refine (s.readByte_writeBytes _ a _).trans (if_neg ?_)
  rwa [length_serialize, hlen]

/-- A completed command stores to no byte but those of its region. -/
theorem Completion.readByte (h : Completion i s t) {a : Nat} (ha : ¬ Stores i s t a) : t.readByte a = s.readByte a := by
  cases i with
  | nop =>
    obtain rfl : t = s := h
    rfl
  | clrerr =>
    obtain rfl : t = s.clearErr := h
    rfl
  | csetup slot type rs1 rs2 =>
    obtain ⟨k, -, rfl⟩ := h
    simp [State.readByte]
  | cclone dst src =>
    obtain rfl : t = _ := h
    simp [State.readByte]
  | isetup rs1 rs2 =>
    obtain ⟨k, -, rfl⟩ := h
    rfl
  | expand rd rs1 dim | remove rd rs1 dim | c2d rd slot =>
    obtain ⟨v, rfl⟩ := h
    rfl
  | d2c rs1 slot =>
    obtain ⟨-, -, rfl⟩ := h
    simp [State.readByte]
  | reordi src dst | reordt src dst => exact ReorderCompletion.readByte h ha
  | hdru =>
    obtain ⟨w, n, rfl⟩ := h
    rfl
  | _ => exact BulkCompletion.readByte h fun hin => ha ⟨rfl, hin⟩

end

/-- Settles O18: with `ERR` 0 at the end the command completed, and completion is one of the listed writes. -/
theorem completedCommandFrame : Obligations.CompletedCommandFrame := by
  unfold Obligations.CompletedCommandFrame
  intro i s t hslots hexec herr
  obtain ⟨e, rfl⟩ | ⟨e, -, -, rfl⟩ | hdone := exec_ends hexec
  · cases herr
  · cases herr
  · exact ⟨hdone.undoWritten_eq hslots, fun a ha => hdone.readByte ha⟩

end Sys2Proof.Machine


/-! PROOFS. The step of the machine: every step ends and keeps the invariant (10_state.md R21, R29 to R31; 40_system.md R122),
the reset (70_reset_and_hazards.md R420), the packed registers (10_state.md R28 to R31), the host's accesses to memory
(20_memory.md R62, R63) and the system commands (40_system.md R123, R124). -/

namespace Sys2Proof.Machine

/-! ### Issue and the end of every step -/

/-- Settles O6: both ways of issuing a word that decodes accept its command. -/
theorem stepRunsDecodedCommand : Obligations.StepRunsDecodedCommand := by
  unfold Obligations.StepRunsDecodedCommand
  intro s t op rest w i hhost hissues hidle herr hdecode hexec
  rw [step_of_issues hhost hissues hidle, issue_of_decode_ok (s := { s with host := rest }) herr hdecode]
  exact accept_next hexec

@[simp] theorem State.writeRegister_busy (s : State) (n : RegNum) (v : Word) : (s.writeRegister n v).busy = s.busy := by
  unfold State.writeRegister
  split <;> rfl

theorem State.hostWriteMem_eq (s : State) (a : Nat) (n : AccessSize) (v : Word) :
    s.hostWriteMem a n v = s ∨
      a + accessBytes n ≤ s.cfg.memSz ∧ s.hostWriteMem a n v = s.writeBytes a (leBytes (accessBytes n) v.toNat) := by
  unfold State.hostWriteMem
  split_ifs with h
  · exact .inl rfl
  · exact .inr ⟨Nat.le_of_not_lt h, rfl⟩

theorem accept_ends (i : Instr) (s : State) : ∃ t, accept i s = .next t ∧ t.busy = false := by
  obtain ⟨t, ht⟩ := exec_next i { s with busy := true }
  exact ⟨_, accept_next ht, rfl⟩

theorem issue_ends (w : CmdWord) {s : State} (hidle : s.busy = false) : ∃ t, issue w s = .next t ∧ t.busy = false := by
  obtain ⟨-, -, h⟩ | ⟨-, -, h⟩ | ⟨-, -, h⟩ | ⟨-, i, -, h⟩ := issue_cases w s <;> rw [h]
  · exact accept_ends _ s
  · exact ⟨s, rfl, hidle⟩
  · exact ⟨_, rfl, rfl⟩
  · exact accept_ends i s

/-- Every host operation at an idle SFCU ends and leaves it idle. -/
theorem hostOp_ends (op : HostOp) {s : State} (hidle : s.busy = false) : ∃ t, hostOp op s = .next t ∧ t.busy = false := by
  cases op with
  | writeReg n v =>
    simp only [hostOp, hostWriteReg]
    split_ifs
    · exact issue_ends _ hidle
    · exact ⟨_, rfl, (s.writeRegister_busy n v).trans hidle⟩
  | readReg n | readMem a n => exact ⟨_, rfl, hidle⟩
  | writeMem a n v =>
    refine ⟨_, rfl, ?_⟩
    obtain h | ⟨-, h⟩ := s.hostWriteMem_eq a n v <;> rw [h]
    · exact hidle
    · exact hidle
  | issue w => exact issue_ends w hidle
  | reset => exact ⟨_, rfl, rfl⟩

/-- Settles O8: the three ends of a command are a completion or a record of a fault, and no host operation at an idle
SFCU leaves it busy. -/
theorem commandsAlwaysEnd : Obligations.CommandsAlwaysEnd := by
  unfold Obligations.CommandsAlwaysEnd
  refine ⟨fun i s => ?command, fun s hidle => ?step⟩
  case command =>
    obtain ⟨t, ht⟩ := exec_next i s
    exact ⟨t, ht, (exec_ends ht).endsProperly⟩
  case step =>
    obtain ⟨-, h⟩ | ⟨op, rest, -, hbusy, -⟩ | ⟨op, rest, -, -, h⟩ := step_cases s
    · exact ⟨s, h, hidle⟩
    · exact absurd hbusy (ne_true_of_eq_false hidle)
    · rw [h]
      exact hostOp_ends op hidle

/-! ### The invariant -/

theorem isPowerOfTwo_iff (l : Nat) : isPowerOfTwo l = true ↔ ∃ e, l = 2 ^ e := by
  rw [isPowerOfTwo, decide_eq_true_eq]
  constructor
  · exact fun h => ⟨_, h.symm⟩
  · rintro ⟨e, rfl⟩
    rw [Nat.log2_two_pow]

theorem needsPowerOfTwo_iff (t : CurveType) : needsPowerOfTwo t = true ↔ t ≠ .rowMajor := by
  cases t <;> decide

theorem usesInterleave_iff (t : CurveType) : usesInterleave t = true ↔ t = .morton ∨ t = .gray := by
  cases t <;> decide

/-- What a construction constructs is legal (41_curve.md R141 to R146). -/
theorem legalCurve_of_csetupChecks_ok {type : CurveType} {n l : Nat} {k : CurveSlot}
    (h : csetupChecks type n l = .ok k) : k = { valid := true, type := type, n := BitVec.ofNat 8 n, l := BitVec.ofNat 40 l }
      ∧ LegalCurve type n l := by
  unfold csetupChecks at h
  simp only [bind_unit_ok, check_ok, ← Bool.not_eq_true, Bool.or_eq_true, Bool.and_eq_true, decide_eq_true_eq, Config.nMax,
    Config.cw, Config.dw, needsPowerOfTwo_iff, usesInterleave_iff, maxInterleaveDimLength, pure,
    Except.pure, Except.ok.injEq, not_and, not_not] at h
  obtain ⟨hn, hdims, hl, hpow, hwidth, htotal, rfl⟩ := h
  refine ⟨rfl, by omega, by omega, hdims, by omega, by omega, fun ht => (isPowerOfTwo_iff l).mp (by simpa using hpow ht), fun ht e he => ?_, by omega⟩
  have hexp : e ≤ min 32 (64 / n) := by
    have hle := Nat.le_of_not_lt (of_decide_eq_false (Bool.eq_false_of_not_eq_true (hwidth ht)))
    rw [he] at hle
    exact (Nat.pow_le_pow_iff_right (by decide)).mp hle
  have hmul : e * n ≤ 64 := (Nat.le_div_iff_mul_le (by omega)).mp (hexp.trans (Nat.min_le_right _ _))
  rwa [Nat.mul_comm]

theorem slotOk_of_csetupSlot_ok {type : BitVec 3} {n l : Nat} {k : CurveSlot} (h : csetupSlot type n l = .ok k) :
    SlotOk k := by
  unfold csetupSlot at h
  split at h
  · cases h
  · obtain ⟨rfl, hlegal⟩ := legalCurve_of_csetupChecks_ok h
    obtain ⟨-, hn, -, -, hl, -⟩ := id hlegal
    intro _
    simpa [Nat.mod_eq_of_lt (show n < 256 by omega), Nat.mod_eq_of_lt (show l < 1099511627776 by omega)] using hlegal

theorem isetupConfig_ok {n b : Nat} {k : Icfg} :
    isetupConfig n b = .ok k ↔ LegalInterleave n b ∧ k = { valid := true, n := BitVec.ofNat 8 n, b := BitVec.ofNat 8 b } := by
  unfold isetupConfig LegalInterleave
  simp only [bind_unit_ok, check_ok, Bool.or_eq_false_iff, decide_eq_false_iff_not, Config.nMax, Config.cw, Config.dw, pure, Except.pure, Except.ok.injEq]
  constructor
  · rintro ⟨hn, hb, hnb, rfl⟩
    exact ⟨by omega, rfl⟩
  · rintro ⟨⟨hn, hn', hb, hb', hnb⟩, rfl⟩
    exact ⟨by omega, by omega, by omega, rfl⟩

theorem icfgOk_of_isetupConfig_ok {n b : Nat} {k : Icfg} (h : isetupConfig n b = .ok k) : IcfgOk k := by
  obtain ⟨hlegal, rfl⟩ := isetupConfig_ok.mp h
  obtain ⟨-, hn, -, hb, -⟩ := id hlegal
  intro _
  simpa [Nat.mod_eq_of_lt (show n < 256 by omega), Nat.mod_eq_of_lt (show b < 256 by omega)] using hlegal

/-- The invariant but for `BUSY`, which is 1 while a command runs. -/
def State.InvRunning (s : State) : Prop := ({ s with busy := false } : State).Inv

section
variable {s t : State} {i : Instr}

theorem State.InvRunning.raise (h : s.InvRunning) (e : Raised) : (s.raise e).InvRunning where
  cfg := h.cfg
  memWf := h.memWf
  memRange := h.memRange
  drawnRange := h.drawnRange
  idle := rfl
  noFault := nofun
  faultCode _ := ⟨e.code, rfl⟩
  icfg := h.icfg
  curve0 := h.curve0
  curve1 := h.curve1

/-- A run of bytes inside `MEM` keeps the canonical form and the range of the memory. -/
theorem State.InvRunning.writeBytes (h : s.InvRunning) {a : Nat} {bs : List Byte} (hin : a + bs.length ≤ s.cfg.memSz) :
    (s.writeBytes a bs).InvRunning where
  cfg := h.cfg
  memWf := Memory.writeBytes_wf h.memWf a bs
  memRange x hx := (Memory.mem_writeBytes hx).elim (h.memRange x) fun hx => by
    show x.1 < s.cfg.memSz
    omega
  drawnRange := h.drawnRange
  idle := rfl
  noFault := h.noFault
  faultCode := h.faultCode
  icfg := h.icfg
  curve0 := h.curve0
  curve1 := h.curve1

/-- A lost output region is a region of `MEM`. -/
theorem State.InvRunning.loseOutput (h : s.InvRunning) (hout : s.OutputReady) : s.loseOutput.InvRunning := by
  unfold State.loseOutput
  split_ifs with hcap
  · exact h
  · have hpos : 0 < s.cap.toNat := Nat.pos_of_ne_zero fun h0 => hcap (BitVec.eq_of_toNat_eq h0)
    exact {
      cfg := h.cfg
      memWf := Memory.forget_wf h.memWf _ _
      memRange := fun x hx => h.memRange x (Memory.mem_forget hx)
      drawnRange := List.forall_mem_cons.mpr ⟨⟨hpos, hout⟩, h.drawnRange⟩
      idle := rfl
      noFault := h.noFault
      faultCode := h.faultCode
      icfg := h.icfg
      curve0 := h.curve0
      curve1 := h.curve1 }

theorem State.InvRunning.setSlot (h : s.InvRunning) (k : SlotId) {v : CurveSlot} (hv : SlotOk v) :
    (s.setSlot k v).InvRunning := by
  cases k
  · exact ⟨h.cfg, h.memWf, h.memRange, h.drawnRange, rfl, h.noFault, h.faultCode, h.icfg, hv, h.curve1⟩
  · exact ⟨h.cfg, h.memWf, h.memRange, h.drawnRange, rfl, h.noFault, h.faultCode, h.icfg, h.curve0, hv⟩

theorem State.InvRunning.slotOk (h : s.InvRunning) (k : SlotId) : SlotOk (s.slot k) := by
  cases k
  · exact h.curve0
  · exact h.curve1

/-- The registers that the invariant does not speak of. -/
structure SameInvariantState (s t : State) : Prop where
  cfg : t.cfg = s.cfg
  mem : t.mem = s.mem
  drawn : t.drawn = s.drawn
  err : t.err = s.err
  errcode : t.errcode = s.errcode
  errinfo : t.errinfo = s.errinfo
  icfg : t.icfg = s.icfg
  curve0 : t.curve0 = s.curve0
  curve1 : t.curve1 = s.curve1

theorem State.InvRunning.of_same (h : s.InvRunning) (hst : SameInvariantState s t) : t.InvRunning := by
  obtain ⟨hcfg, hmem, hdrawn, herr, hcode, hinfo, hicfg, h0, h1⟩ := hst
  exact {
    cfg := hcfg ▸ h.cfg
    memWf := hmem ▸ h.memWf
    memRange := hcfg ▸ hmem ▸ h.memRange
    drawnRange := hcfg ▸ hdrawn ▸ h.drawnRange
    idle := rfl
    noFault := herr ▸ hcode ▸ hinfo ▸ h.noFault
    faultCode := herr ▸ hcode ▸ h.faultCode
    icfg := hicfg ▸ h.icfg
    curve0 := h0 ▸ h.curve0
    curve1 := h1 ▸ h.curve1 }

theorem State.InvRunning.completion (h : s.InvRunning) (hdone : Completion i s t) : t.InvRunning := by
  cases i with
  | nop =>
    obtain rfl : t = s := hdone
    exact h
  | clrerr =>
    obtain rfl : t = s.clearErr := hdone
    exact ⟨h.cfg, h.memWf, h.memRange, h.drawnRange, rfl, fun _ => ⟨rfl, rfl⟩, nofun, h.icfg, h.curve0, h.curve1⟩
  | csetup slot type rs1 rs2 =>
    obtain ⟨k, hk, rfl⟩ := hdone
    exact h.setSlot slot (slotOk_of_csetupSlot_ok hk)
  | cclone dst src =>
    obtain rfl : t = _ := hdone
    exact h.setSlot dst (h.slotOk src)
  | isetup rs1 rs2 =>
    obtain ⟨k, hk, rfl⟩ := hdone
    exact ⟨h.cfg, h.memWf, h.memRange, h.drawnRange, rfl, h.noFault, h.faultCode, icfgOk_of_isetupConfig_ok hk, h.curve0,
      h.curve1⟩
  | expand rd rs1 dim | remove rd rs1 dim | c2d rd slot =>
    obtain ⟨v, rfl⟩ := hdone
    exact h.of_same ⟨rfl, rfl, rfl, rfl, rfl, rfl, rfl, rfl, rfl⟩
  | d2c rs1 slot =>
    obtain ⟨-, -, rfl⟩ := hdone
    exact h.of_same (by constructor <;> simp)
  | reordi src dst | reordt src dst =>
    obtain ⟨xs, hchecks, hlen, rfl⟩ := hdone
    obtain ⟨-, hin⟩ := inputReady_of_commonChecks_ok hchecks rfl
    have hwrite : (s.writeBytes s.pa.toNat (serialize s.ew.toNat xs)).InvRunning :=
      h.writeBytes (by rwa [length_serialize, hlen])
    exact hwrite.of_same ⟨rfl, rfl, rfl, rfl, rfl, rfl, rfl, rfl, rfl⟩
  | hdru =>
    obtain ⟨w, n, rfl⟩ := hdone
    exact h.of_same ⟨rfl, rfl, rfl, rfl, rfl, rfl, rfl, rfl, rfl⟩
  | _ =>
    obtain ⟨b, hchecks, hfits, -, rfl⟩ := hdone
    have hout : s.pb.toNat + s.cap.toNat ≤ s.cfg.memSz := outputReady_of_commonChecks_ok hchecks rfl
    have hwrite : (s.writeBytes s.pb.toNat b.out).InvRunning := h.writeBytes (by omega)
    exact hwrite.of_same ⟨rfl, rfl, rfl, rfl, rfl, rfl, rfl, rfl, rfl⟩

/-- Every command keeps the invariant, whichever way it ends. -/
theorem State.InvRunning.exec (h : s.InvRunning) (hexec : exec i s = .next t) : t.InvRunning := by
  obtain ⟨e, rfl⟩ | ⟨e, hout, hchecks, rfl⟩ | hdone := exec_ends hexec
  · exact h.raise e
  · exact (h.loseOutput (outputReady_of_commonChecks_ok hchecks hout)).raise e
  · exact h.completion hdone

theorem State.Inv.running (h : s.Inv) : s.InvRunning := by
  have hs : ({ s with busy := false } : State) = s := by rw [← h.idle]
  rwa [State.InvRunning, hs]

theorem State.InvRunning.inv (h : s.InvRunning) (hidle : s.busy = false) : s.Inv := by
  have hs : ({ s with busy := false } : State) = s := by rw [← hidle]
  rwa [State.InvRunning, hs] at h

theorem State.Inv.accept (h : s.Inv) (haccept : accept i s = .next t) : t.Inv := by
  obtain ⟨u, hu⟩ := exec_next i { s with busy := true }
  rw [accept_next hu] at haccept
  obtain rfl := Host.Outcome.next.inj haccept
  have hrunning : ({ s with busy := true } : State).InvRunning := h.running
  exact hrunning.exec hu

theorem State.Inv.issue {w : CmdWord} (h : s.Inv) (hissue : issue w s = .next t) : t.Inv := by
  obtain ⟨-, -, heq⟩ | ⟨-, -, heq⟩ | ⟨-, -, heq⟩ | ⟨-, j, -, heq⟩ := issue_cases w s <;> rw [heq] at hissue
  · exact h.accept hissue
  · exact Host.Outcome.next.inj hissue ▸ h
  · exact Host.Outcome.next.inj hissue ▸ (h.running.raise _).inv rfl
  · exact h.accept hissue

theorem State.Inv.writeRegister (h : s.Inv) (n : RegNum) (v : Word) : (s.writeRegister n v).Inv := by
  refine (h.running.of_same ?_).inv ((s.writeRegister_busy n v).trans h.idle)
  unfold State.writeRegister
  split <;> exact ⟨rfl, rfl, rfl, rfl, rfl, rfl, rfl, rfl, rfl⟩

theorem State.Inv.hostReset (h : s.Inv) : s.hostReset.Inv :=
  ⟨h.cfg, h.memWf, h.memRange, h.drawnRange, rfl, fun _ => ⟨rfl, rfl⟩, nofun, nofun, nofun, nofun⟩

theorem State.Inv.hostOp {op : HostOp} (h : s.Inv) (hop : hostOp op s = .next t) : t.Inv := by
  cases op with
  | writeReg n v =>
    simp only [Machine.hostOp, hostWriteReg] at hop
    split_ifs at hop
    · exact h.issue hop
    · exact Host.Outcome.next.inj hop ▸ h.writeRegister n v
  | readReg n | readMem a n =>
    obtain rfl := Host.Outcome.next.inj hop
    have hread : ∀ w, (s.answer w).InvRunning := fun w =>
      h.running.of_same ⟨rfl, rfl, rfl, rfl, rfl, rfl, rfl, rfl, rfl⟩
    exact (hread _).inv h.idle
  | writeMem a n v =>
    obtain rfl := Host.Outcome.next.inj hop
    obtain heq | ⟨hin, heq⟩ := s.hostWriteMem_eq a n v <;> rw [heq]
    · exact h
    · exact (h.running.writeBytes (by rwa [length_leBytes])).inv h.idle
  | issue w => exact h.issue hop
  | reset => exact Host.Outcome.next.inj hop ▸ h.hostReset

end

/-- Settles O9: a step is a host operation at an idle SFCU, and each of them keeps the invariant. -/
theorem stepKeepsInvariant : Obligations.StepKeepsInvariant := by
  unfold Obligations.StepKeepsInvariant
  intro s t h hstep
  obtain ⟨-, heq⟩ | ⟨op, rest, -, hbusy, -⟩ | ⟨op, rest, -, -, heq⟩ := step_cases s
  · exact Host.Outcome.next.inj (heq.symm.trans hstep) ▸ h
  · exact absurd hbusy (ne_true_of_eq_false h.idle)
  · have htaken : ({ s with host := rest } : State).InvRunning :=
      h.running.of_same ⟨rfl, rfl, rfl, rfl, rfl, rfl, rfl, rfl, rfl⟩
    exact (htaken.inv h.idle).hostOp (heq.symm.trans hstep)

/-- Settles O10: nothing is written, nothing is constructed and no fault is recorded. -/
theorem resetMeetsInvariant : Obligations.ResetMeetsInvariant := by
  unfold Obligations.ResetMeetsInvariant
  exact ⟨by decide, List.Pairwise.nil, nofun, nofun, rfl, fun _ => ⟨rfl, rfl⟩, nofun, nofun, nofun, nofun⟩

/-! ### Reset -/

theorem State.readRegister_hostReset (s : State) (n : RegNum) : s.hostReset.readRegister n = State.reset.readRegister n := rfl

/-- Settles O12: the reset registers are those of the state after reset, and everything else is kept. -/
theorem hostResetEffect : Obligations.HostResetEffect := by
  unfold Obligations.HostResetEffect
  refine ⟨fun s rest hhost hidle => ?_, rfl, rfl⟩
  refine ⟨_, step_of_idle hhost hidle, fun n => ?_, fun _ => rfl, rfl, rfl, rfl⟩
  rw [State.readRegister_hostReset]
  exact resetValues.1 n

/-! ### The packed registers -/

/-- A field of a packed word, by arithmetic. -/
theorem toNat_extractLsb'_ofNat (x lo len : Nat) :
    ((BitVec.ofNat 64 x).extractLsb' lo len).toNat = x % 2 ^ 64 / 2 ^ lo % 2 ^ len := by
  simp [BitVec.extractLsb'_toNat, Nat.shiftRight_eq_div_pow]

theorem getLsbD_ofNat_eq_decide (x j : Nat) :
    (BitVec.ofNat 64 x).getLsbD j = decide (j < 64 ∧ x / 2 ^ j % 2 = 1) := by
  simp [BitVec.getLsbD_ofNat, Nat.testBit_eq_decide_div_mod_eq]

theorem toNat_ofNat_shiftRight (x k : Nat) : (BitVec.ofNat 64 x >>> k).toNat = x % 2 ^ 64 / 2 ^ k := by
  simp [Nat.shiftRight_eq_div_pow]

theorem decide_toNat (b : Bool) : decide (b.toNat = 1) = b := by cases b <;> rfl

/-- The fields of `STATUS` (R28). -/
theorem status_fields (s : State) : s.status.getLsbD 0 = s.busy ∧ s.status.getLsbD 1 = s.err
    ∧ s.status.getLsbD 2 = s.icfg.valid ∧ s.status.getLsbD 3 = s.curve0.valid ∧ s.status.getLsbD 4 = s.curve1.valid
    ∧ s.status >>> 5 = 0 := by
  unfold State.status
  generalize s.busy = a, s.err = b, s.icfg.valid = c, s.curve0.valid = d, s.curve1.valid = e
  revert a b c d e
  decide

/-- The fields of `ICFG` (R30). -/
theorem icfgWord_fields (k : Icfg) : (icfgWord k).getLsbD 0 = k.valid ∧ (icfgWord k).extractLsb' 1 7 = 0
    ∧ (icfgWord k).extractLsb' 8 8 = k.n ∧ (icfgWord k).extractLsb' 16 8 = k.b ∧ icfgWord k >>> 24 = 0 := by
  have hv := Bool.toNat_lt k.valid
  have hn := k.n.isLt
  have hb := k.b.isLt
  unfold icfgWord
  refine ⟨?_, ?_, ?_, ?_, ?_⟩
  · rw [getLsbD_ofNat_eq_decide]
    exact (decide_eq_decide.mpr (by omega)).trans (decide_toNat k.valid)
  all_goals
    apply BitVec.eq_of_toNat_eq
    simp only [toNat_extractLsb'_ofNat, toNat_ofNat_shiftRight, BitVec.ofNat_eq_ofNat, BitVec.toNat_ofNat]
    omega

theorem curveTypeNumber_lt (t : CurveType) : curveTypeNumber t < 8 := by cases t <;> decide

/-- The fields of a curve slot register (R31). -/
theorem slotWord_fields (k : CurveSlot) : (slotWord k).getLsbD 0 = k.valid
    ∧ ((slotWord k).extractLsb' 1 3).toNat = curveTypeNumber k.type ∧ (slotWord k).extractLsb' 4 4 = 0
    ∧ (slotWord k).extractLsb' 8 8 = k.n ∧ (slotWord k).extractLsb' 16 40 = k.l ∧ slotWord k >>> 56 = 0 := by
  have hv := Bool.toNat_lt k.valid
  have ht := curveTypeNumber_lt k.type
  have hn := k.n.isLt
  have hl := k.l.isLt
  unfold slotWord
  refine ⟨?_, ?_, ?_, ?_, ?_, ?_⟩
  · rw [getLsbD_ofNat_eq_decide]
    exact (decide_eq_decide.mpr (by omega)).trans (decide_toNat k.valid)
  · rw [toNat_extractLsb'_ofNat]
    omega
  all_goals
    apply BitVec.eq_of_toNat_eq
    simp only [toNat_extractLsb'_ofNat, toNat_ofNat_shiftRight, BitVec.ofNat_eq_ofNat, BitVec.toNat_ofNat]
    omega

/-- Settles O14: register by register, the fields of the packed word. -/
theorem packedRegisterFields : Obligations.PackedRegisterFields := by
  unfold Obligations.PackedRegisterFields
  refine fun s => ⟨status_fields s, ⟨?_, ?_⟩, icfgWord_fields s.icfg, fun k => ?_⟩
  · change (s.errcode.setWidth 64).extractLsb' 0 8 = s.errcode
    apply BitVec.eq_of_getLsbD_eq
    intro j hj
    simp [hj, show j < 64 by omega]
  · change s.errcode.setWidth 64 >>> 8 = 0
    apply BitVec.eq_of_getLsbD_eq
    intro j hj
    simp
  · cases k
    · exact ⟨_, rfl, slotWord_fields s.curve0⟩
    · exact ⟨_, rfl, slotWord_fields s.curve1⟩

/-! ### The host's accesses to memory -/

/-- Byte `j` of `LEbytes(v, n)` is byte `j` of `v` (R63). -/
theorem getElem?_leBytes {n j : Nat} (hj : j < n) (v : Nat) : (leBytes n v)[j]? = some (BitVec.ofNat 8 (v / 256 ^ j)) := by
  induction n generalizing v j with
  | zero => omega
  | succ n ih =>
    cases j with
    | zero => simp [leBytes]
    | succ j => rw [leBytes, List.getElem?_cons_succ, ih (by omega), Nat.div_div_eq_div_mul, pow_succ']

/-- Byte `j` of `LE(bs)` is byte `j` of `bs` (R63). -/
theorem leValue_div_mod (bs : List Byte) (j : Nat) : leValue bs / 256 ^ j % 256 = (bs.getD j 0).toNat := by
  induction bs generalizing j with
  | nil => simp [leValue]
  | cons b bs ih =>
    have hb := b.isLt
    cases j with
    | zero => simp [leValue]; omega
    | succ j =>
      rw [leValue, pow_succ', ← Nat.div_div_eq_div_mul, show (b.toNat + 256 * leValue bs) / 256 = leValue bs by omega, ih,
        List.getD_cons_succ]

theorem two_pow_eight_mul (j : Nat) : 2 ^ (8 * j) = 256 ^ j := pow_mul 2 8 j

theorem accessBytes_le (n : AccessSize) : accessBytes n ≤ 8 := by cases n <;> decide

/-- Settles O15: a write stores the little-endian bytes, a read gives their value, and both look at the range first. -/
theorem hostMemoryAccess : Obligations.HostMemoryAccess := by
  unfold Obligations.HostMemoryAccess
  refine ⟨fun s rest a n v hhost hidle => ?write, fun s rest a n hhost hidle => ?read⟩
  case write =>
    rw [step_of_idle hhost hidle]
    refine ⟨fun hin => ?_, fun hout => ?_⟩
    · have hwrite : ({ s with host := rest } : State).hostWriteMem a n v
          = ({ s with host := rest } : State).writeBytes a (leBytes (accessBytes n) v.toNat) :=
        if_neg (Nat.not_lt.mpr hin)
      refine ⟨_, congrArg Host.Outcome.next hwrite, rfl, rfl, fun x => ?_⟩
      rw [State.readByte_writeBytes, length_leBytes]
      split_ifs with hx
      · rw [List.getD_eq_getElem?_getD, getElem?_leBytes (by omega), Option.getD_some]
        apply BitVec.eq_of_toNat_eq
        simp [BitVec.extractLsb'_toNat, Nat.shiftRight_eq_div_pow, two_pow_eight_mul]
      · rfl
    · exact congrArg Host.Outcome.next (if_pos hout)
  case read =>
    rw [step_of_idle hhost hidle]
    refine ⟨({ s with host := rest } : State).hostReadMem a n, rfl, fun hin => ?_, fun hout => if_pos hout⟩
    have hread : ({ s with host := rest } : State).hostReadMem a n
        = BitVec.ofNat 64 (leValue (s.readBytes a (accessBytes n))) := by
      have hsame : SameMemory s { s with host := rest } := fun _ => rfl
      rw [State.hostReadMem, if_neg (Nat.not_lt.mpr hin), hsame.readBytes]
    have hlt := leValue_lt (s.readBytes a (accessBytes n))
    have h64 : 256 ^ accessBytes n ≤ 2 ^ 64 := Nat.pow_le_pow_right (by decide) (accessBytes_le n)
    rw [State.length_readBytes] at hlt
    have hval : (BitVec.ofNat 64 (leValue (s.readBytes a (accessBytes n)))).toNat
        = leValue (s.readBytes a (accessBytes n)) := by
      rw [BitVec.toNat_ofNat, Nat.mod_eq_of_lt (by omega)]
    rw [hread, hval, two_pow_eight_mul]
    refine ⟨fun j hj => ?_, hlt⟩
    apply BitVec.eq_of_toNat_eq
    rw [BitVec.extractLsb'_toNat, hval, Nat.shiftRight_eq_div_pow, two_pow_eight_mul, leValue_div_mod,
      List.getD_eq_getElem?_getD, State.getElem?_readBytes _ _ _ _ hj]
    rfl

/-! ### The system commands -/

/-- Settles O19: `CLRERR` clears three registers, which are clear where no fault is recorded. -/
theorem systemCommands : Obligations.SystemCommands := by
  unfold Obligations.SystemCommands
  refine ⟨fun _ => rfl, fun s => ⟨_, rfl, rfl, rfl, rfl, rfl, rfl, fun _ => rfl⟩, fun s hinv herr => ?_⟩
  obtain ⟨hcode, hinfo⟩ := hinv.noFault herr
  have hclear : s.clearErr = s := by rw [State.clearErr, ← herr, ← hcode, ← hinfo]
  exact congrArg Host.Outcome.next hclear

/-! ### `CCLONE` -/

theorem SameBesidesSlots.setSlot (s : State) (k : SlotId) (v : CurveSlot) : SameBesidesSlots s (s.setSlot k v) := by
  cases k <;> rfl

theorem SameMemory.setSlot (s : State) (k : SlotId) (v : CurveSlot) : SameMemory s (s.setSlot k v) := fun a => by
  simp [State.readByte]

/-- Settles O21: the slot check decides between the fault and the copy. -/
theorem ccloneCopies : Obligations.CcloneCopies := by
  unfold Obligations.CcloneCopies
  refine fun dst src s => ⟨fun hvalid => ⟨_, ?_, s.trapped _⟩, fun hvalid => ?_⟩
  · simp only [exec, execCclone, State.checkSlot_error.mpr ⟨hvalid, rfl⟩, State.trap]
  · refine ⟨s.setSlot dst (s.slot src), ?_, s.slot_setSlot_same _ _, fun j hj => s.slot_setSlot_other _ _ _ hj,
      SameBesidesSlots.setSlot s _ _, SameMemory.setSlot s _ _, fun h => ?_⟩
    · simp only [exec, execCclone, State.checkSlot_ok.mpr ⟨hvalid, rfl⟩]
    · subst h
      exact s.setSlot_slot _

end Sys2Proof.Machine


/-! PROOFS. The curves (41_curve.md) and the interleaver (42_interleave.md): the adjacency of consecutive Hilbert cells, the
Gray code, the laws of the two primitives, and the commands that construct and convert with their faults in order. -/

namespace Sys2Proof.Machine

/-! ### Hilbert: consecutive cells are adjacent (R160) -/

/-- Two cells that share an edge. -/
def Adjacent (p q : Nat × Nat) : Prop :=
  (p.2 = q.2 ∧ (q.1 = p.1 + 1 ∨ p.1 = q.1 + 1)) ∨ (p.1 = q.1 ∧ (q.2 = p.2 + 1 ∨ p.2 = q.2 + 1))

theorem Adjacent.placeInQuadrant {p q : Nat × Nat} (h : Adjacent p q) {s : Nat} (hp : p.1 < s ∧ p.2 < s)
    (hq : q.1 < s ∧ q.2 < s) (t : Nat) : Adjacent (placeInQuadrant s t p) (placeInQuadrant s t q) := by
  obtain ⟨hp1, hp2⟩ := hp
  obtain ⟨hq1, hq2⟩ := hq
  unfold Adjacent at h ⊢
  simp only [Machine.placeInQuadrant, hilbertRot]
  split_ifs <;> dsimp only <;> omega

theorem four_pow_pos (k : Nat) : 0 < 4 ^ k := Nat.pow_pos (by decide)

/-- The curve starts in the corner `(0, 0)`. -/
theorem hilbertCell_first (k : Nat) : hilbertCell k 0 = (0, 0) := by
  induction k with
  | zero => rfl
  | succ k ih =>
    have h := hilbertCell_succ (q := 0) (four_pow_pos k)
    rw [Nat.mul_zero, Nat.add_zero, ih] at h
    rw [h]
    simp [placeInQuadrant, hilbertRot, quadrantX, quadrantY]

/-- The curve ends in the corner `(L - 1, 0)`. -/
theorem hilbertCell_last (k : Nat) : hilbertCell k (4 ^ k - 1) = (2 ^ k - 1, 0) := by
  induction k with
  | zero => rfl
  | succ k ih =>
    have hpos := four_pow_pos k
    have htwo := Nat.two_pow_pos k
    have h := hilbertCell_succ (k := k) (q := 3) (e := 4 ^ k - 1) (by omega)
    rw [show 4 ^ k * 3 + (4 ^ k - 1) = 4 ^ (k + 1) - 1 by rw [pow_succ]; omega, ih] at h
    rw [h, pow_succ]
    simp [placeInQuadrant, hilbertRot, quadrantX, quadrantY]
    omega

/-- From the last cell of a quadrant the curve goes to the first cell of the next. -/
theorem adjacent_next_quadrant {q s : Nat} (hq : q < 3) (hs : 0 < s) :
    Adjacent (placeInQuadrant s q (s - 1, 0)) (placeInQuadrant s (q + 1) (0, 0)) := by
  unfold Adjacent
  interval_cases q <;> simp [placeInQuadrant, hilbertRot, quadrantX, quadrantY] <;> omega

theorem adjacent_hilbertCell_succ (k d : Nat) (hd : d + 1 < 4 ^ k) :
    Adjacent (hilbertCell k d) (hilbertCell k (d + 1)) := by
  induction k generalizing d with
  | zero => omega
  | succ k ih =>
    have hpos := four_pow_pos k
    have hsplit : 4 ^ k * (d / 4 ^ k) + d % 4 ^ k = d := Nat.div_add_mod d _
    have hrest : d % 4 ^ k < 4 ^ k := Nat.mod_lt d hpos
    generalize d / 4 ^ k = q at hsplit
    generalize d % 4 ^ k = e at hsplit hrest
    subst hsplit
    rw [pow_succ] at hd
    obtain hin | hlast := Nat.lt_or_ge (e + 1) (4 ^ k)
    · have hcell : ∀ {d}, d < 4 ^ k → (hilbertCell k d).1 < 2 ^ k ∧ (hilbertCell k d).2 < 2 ^ k := fun hd =>
        let ⟨hx, hy, _⟩ := hilbertIndex_hilbertCell k _ hd
        ⟨hx, hy⟩
      rw [Nat.add_assoc, hilbertCell_succ hrest, hilbertCell_succ hin]
      exact (ih e hin).placeInQuadrant (hcell hrest) (hcell hin) q
    · obtain rfl : e = 4 ^ k - 1 := by omega
      have hq : q < 3 := Nat.lt_of_mul_lt_mul_left (a := 4 ^ k) (by omega)
      have hnext : 4 ^ k * q + (4 ^ k - 1) + 1 = 4 ^ k * (q + 1) + 0 := by rw [Nat.mul_succ]; omega
      rw [hnext, hilbertCell_succ hrest, hilbertCell_succ hpos, hilbertCell_last, hilbertCell_first]
      exact adjacent_next_quadrant hq (Nat.two_pow_pos k)

/-- Settles O28: inside a quadrant by the smaller curve, which the rotation maps to itself, and across by its ends. -/
theorem hilbertStepsAreAdjacent : Obligations.HilbertStepsAreAdjacent := by
  unfold Obligations.HilbertStepsAreAdjacent
  intro e d x y x' y' hd hcell hcell'
  rw [show (2 ^ e) ^ 2 = 4 ^ e by rw [← pow_mul, Nat.mul_comm, pow_mul]; rfl] at hd
  have hadj := adjacent_hilbertCell_succ e d hd
  change hilbertCoords d (2 ^ e) = [x, y] at hcell
  change hilbertCoords (d + 1) (2 ^ e) = [x', y'] at hcell'
  rw [hilbertCoords_two_pow] at hcell hcell'
  obtain ⟨rfl, rfl⟩ : _ = x ∧ _ = y := by simpa using hcell
  obtain ⟨rfl, rfl⟩ : _ = x' ∧ _ = y' := by simpa using hcell'
  exact hadj

/-! ### Morton and Gray (R153 to R155) -/

theorem div_lt_iff {n : Nat} (hn : 0 < n) (p b : Nat) : p / n < b ↔ p < n * b := by
  rw [Nat.div_lt_iff_lt_mul hn, Nat.mul_comm]

/-- Settles O25: the distance is made of expanded coordinates, a coordinate is what `remove` gathers. -/
theorem mortonInterleavesBits : Obligations.MortonInterleavesBits := by
  unfold Obligations.MortonInterleavesBits
  refine ⟨fun xs n b p hlen hn => ?_, fun d n b i j hi => ?_⟩
  · simp only [← div_lt_iff hn]
    exact testBit_mortonDist hlen b p
  · exact (congrArg (Nat.testBit · j) (getD_mortonCoords d b hi)).trans (testBit_remove d i n b j)

theorem grayFold_lt_iff {m k : Nat} (hm : m < 2 ^ 64) : grayFold m < 2 ^ k ↔ m < 2 ^ k :=
  ⟨fun h => grayUnfold_grayFold hm ▸ grayUnfold_lt h, grayFold_lt⟩

/-- Folding keeps the bit length (R154). -/
theorem size_grayFold {m : Nat} (hm : m < 2 ^ 64) : (grayFold m).size = m.size :=
  eq_of_forall_ge_iff fun k => by rw [Nat.size_le, Nat.size_le, grayFold_lt_iff hm]

/-- A bit of the unfolding is the folded bit and the next bit of the unfolding. -/
theorem testBit_grayUnfold_succ {m : Nat} (hm : m < 2 ^ 64) (j : Nat) :
    (grayUnfold m).testBit j = (m.testBit j ^^ (grayUnfold m).testBit (j + 1)) := by
  have hfold : (grayFold (grayUnfold m)).testBit j = m.testBit j := by rw [grayFold_grayUnfold hm]
  rw [grayFold, Nat.testBit_xor, Nat.testBit_shiftRight, Nat.add_comm 1 j] at hfold
  rw [← hfold, Bool.xor_assoc, Bool.xor_self, Bool.xor_false]

theorem testBit_grayUnfold_of_ge {m j : Nat} (hm : m < 2 ^ 64) (hj : 64 ≤ j) : (grayUnfold m).testBit j = false :=
  Nat.testBit_lt_two_pow ((grayUnfold_lt hm).trans_le (Nat.pow_le_pow_right (by decide) hj))

theorem decide_mod_two_add_one (c : Nat) : decide ((c + 1) % 2 = 1) = !decide (c % 2 = 1) := by
  rw [← decide_not, decide_eq_decide]
  omega

/-- From the top bit down, the bits of the unfolding are the parities of the bits from there up. -/
theorem testBit_grayUnfold_eq_parity {m : Nat} (hm : m < 2 ^ 64) (n j : Nat) (hj : j + n = 64) :
    (grayUnfold m).testBit j = decide ((List.range' j n).countP m.testBit % 2 = 1) := by
  induction n generalizing j with
  | zero => simpa using testBit_grayUnfold_of_ge hm (show 64 ≤ j by omega)
  | succ n ih =>
    rw [testBit_grayUnfold_succ hm, ih (j + 1) (by omega), List.range'_succ, List.countP_cons]
    cases m.testBit j with
    | false => simp
    | true => rw [if_pos rfl, decide_mod_two_add_one]; simp

/-- The bits from `j` up, among the 64 of a word. -/
theorem countP_range_from (f : Nat → Bool) {j : Nat} (hj : j ≤ 64) :
    (List.range 64).countP (fun k => decide (j ≤ k) && f k) = (List.range' j (64 - j)).countP f := by
  have hsplit : List.range 64 = List.range j ++ List.range' j (64 - j) := by
    have happend := List.range'_append_1 (s := 0) (m := j) (n := 64 - j)
    rw [Nat.zero_add, show j + (64 - j) = 64 by omega] at happend
    rw [List.range_eq_range', List.range_eq_range', happend]
  rw [hsplit, List.countP_append, List.countP_eq_zero.mpr, Nat.zero_add]
  · exact List.countP_congr fun k hk => by
      have : j ≤ k := (List.mem_range'_1.mp hk).1
      simp [this]
  · intro k hk
    have : ¬ j ≤ k := Nat.not_le.mpr (List.mem_range.mp hk)
    simp [this]

theorem testBit_grayUnfold {m : Nat} (hm : m < 2 ^ 64) (j : Nat) : (grayUnfold m).testBit j =
    decide (((List.range 64).countP (fun k => decide (j ≤ k) && m.testBit k)) % 2 = 1) := by
  obtain hj | hj := Nat.le_total j 64
  · rw [countP_range_from _ hj, testBit_grayUnfold_eq_parity hm (64 - j) j (by omega)]
  · have hnone : (List.range 64).countP (fun k => decide (j ≤ k) && m.testBit k) = 0 := by
      refine List.countP_eq_zero.mpr fun k hk => ?_
      obtain hk := List.mem_range.mp hk
      simp only [Bool.and_eq_true, decide_eq_true_eq, not_and]
      intro hjk
      rw [Nat.testBit_lt_two_pow (hm.trans_le (Nat.pow_le_pow_right (by decide) (hj.trans hjk)))]
      simp
    rw [testBit_grayUnfold_of_ge hm hj, hnone]
    rfl

/-- Settles O26: folding and unfolding as products of shifts, and the parity that unfolding computes. -/
theorem grayFoldUnfold : Obligations.GrayFoldUnfold := by
  unfold Obligations.GrayFoldUnfold
  refine ⟨fun _ => rfl, fun m hm => ?_, by decide, by decide, fun _ _ _ => rfl, fun _ _ _ => rfl⟩
  exact ⟨grayUnfold_grayFold hm, grayFold_grayUnfold hm, size_grayFold hm,
    fun k _ hmk => ⟨grayFold_lt hmk, grayUnfold_lt hmk⟩, testBit_grayUnfold hm⟩

/-! ### The laws of the interleaver (R189) -/

theorem remove_expand {i n : Nat} (hi : i < n) (b v k : Nat) (hk : k < n) (j : Nat) :
    (remove (expand v i n b) k n b).testBit j = (decide (j < b) && decide (k = i) && v.testBit j) := by
  rw [testBit_remove, testBit_expand v hi, mul_add_div_of_lt hk, mul_add_mod_of_lt hk, ← Bool.and_assoc,
    ← Bool.and_assoc, Bool.and_self]

theorem testBit_foldl_or (f : Nat → Nat) (l : List Nat) (a p : Nat) :
    (l.foldl (fun acc i => acc ||| f i) a).testBit p = (a.testBit p || l.any (fun i => (f i).testBit p)) := by
  induction l generalizing a with
  | nil => simp
  | cons i l ih => rw [List.foldl_cons, ih, Nat.testBit_or, List.any_cons, Bool.or_assoc]

/-- Settles O32: bit by bit, from the bits of the two primitives. -/
theorem interleaveRoundTrip : Obligations.InterleaveRoundTrip := by
  unfold Obligations.InterleaveRoundTrip
  rintro n b ⟨hn, -, -, -, -⟩
  refine ⟨fun i hi v hv => ⟨?same, fun k hk hki => ?other⟩, fun d hd => ?all⟩
  case same =>
    refine Nat.eq_of_testBit_eq fun j => ?_
    rw [remove_expand hi b v i hi]
    obtain hj | hj := Nat.lt_or_ge j b
    · simp [hj]
    · simp [Nat.testBit_lt_two_pow (hv.trans_le (Nat.pow_le_pow_right (by decide) hj))]
  case other =>
    refine Nat.eq_of_testBit_eq fun j => ?_
    rw [remove_expand hi b v k hk]
    simp [hki]
  case all =>
    refine Nat.eq_of_testBit_eq fun p => ?_
    rw [testBit_foldl_or, Nat.zero_testBit, Bool.false_or]
    obtain hp | hp := Nat.lt_or_ge p (n * b)
    · have hpn : p % n < n := Nat.mod_lt p hn
      have hpb : p / n < b := (div_lt_iff hn p b).mpr hp
      have hbit : ∀ i ∈ List.range n, (expand (remove d i n b) i n b).testBit p = (decide (p % n = i) && d.testBit p) := by
        intro i hi
        rw [testBit_expand _ (List.mem_range.mp hi), testBit_remove]
        by_cases him : p % n = i
        · subst him
          simp [hpb, Nat.div_add_mod']
        · simp [him]
      rw [Bool.eq_iff_iff, List.any_eq_true]
      constructor
      · rintro ⟨i, hi, h⟩
        rw [hbit i hi, Bool.and_eq_true] at h
        exact h.2
      · intro h
        refine ⟨p % n, List.mem_range.mpr hpn, ?_⟩
        rw [hbit _ (List.mem_range.mpr hpn)]
        simpa using h
    · rw [Nat.testBit_lt_two_pow (hd.trans_le (Nat.pow_le_pow_right (by decide) hp)), List.any_eq_false]
      intro i hi
      have hpb : ¬ p / n < b := fun h => absurd ((div_lt_iff hn p b).mp h) (Nat.not_lt.mpr hp)
      rw [testBit_expand _ (List.mem_range.mp hi)]
      simp [hpb]

/-! ### Deposit and extract under a mask (R181, R188) -/

theorem mask_eq_expand (i n : Nat) {b w : Nat} (hb : b ≤ w) : mask i n b = expand (2 ^ w - 1) i n b := by
  induction b with
  | zero => rfl
  | succ b ih =>
    have hbit : bitAt (2 ^ w - 1) b = 1 := by
      rw [bitAt, Nat.testBit_two_pow_sub_one, decide_eq_true (by omega)]; rfl
    rw [mask, expand, ih (by omega), hbit, Nat.one_mul]

theorem testBit_mask {i n : Nat} (hi : i < n) (b p : Nat) :
    (mask i n b).testBit p = (decide (p < n * b) && decide (p % n = i)) := by
  rw [mask_eq_expand i n (Nat.le_refl b), testBit_expand _ hi, Nat.testBit_two_pow_sub_one]
  simp only [div_lt_iff (show 0 < n by omega)]
  by_cases h : p < n * b <;> simp [h]

/-- The number of bits of the mask of dimension `i` below position `q`. -/
def maskRank (i n b q : Nat) : Nat := min b (q / n + if q % n ≤ i then 0 else 1)

theorem maskRank_zero {i n : Nat} (b : Nat) : maskRank i n b 0 = 0 := by simp [maskRank]

theorem maskRank_of_le {i n b q : Nat} (hn : 0 < n) (hq : n * b ≤ q) : maskRank i n b q = b := by
  have : b ≤ q / n := (Nat.le_div_iff_mul_le hn).mpr (by rwa [Nat.mul_comm])
  unfold maskRank
  omega

/-- A bit of the mask stands at its rank times `N` plus the dimension. -/
theorem maskRank_of_testBit {i n b q : Nat} (hi : i < n) (h : (mask i n b).testBit q = true) :
    maskRank i n b q < b ∧ q = maskRank i n b q * n + i := by
  rw [testBit_mask hi, Bool.and_eq_true, decide_eq_true_eq, decide_eq_true_eq, ← div_lt_iff (by omega)] at h
  obtain ⟨hlt, hmod⟩ := h
  have hrank : maskRank i n b q = q / n := by simp only [maskRank, hmod, le_refl, if_true]; omega
  rw [hrank]
  exact ⟨hlt, by rw [← hmod, Nat.div_add_mod']⟩

/-- The rank grows by one at each bit of the mask. -/
theorem maskRank_succ {i n : Nat} (hi : i < n) (b q : Nat) :
    maskRank i n b (q + 1) = if (mask i n b).testBit q then maskRank i n b q + 1 else maskRank i n b q := by
  have hn : 0 < n := by omega
  obtain ⟨a, r, hr, rfl⟩ : ∃ a r, r < n ∧ q = a * n + r := ⟨q / n, q % n, Nat.mod_lt q hn, (Nat.div_add_mod' q n).symm⟩
  rw [testBit_mask hi]
  simp only [← div_lt_iff hn, mul_add_div_of_lt hr, mul_add_mod_of_lt hr, maskRank]
  obtain hlt | hge := Nat.lt_or_ge (r + 1) n
  · rw [Nat.add_assoc, mul_add_div_of_lt hlt, mul_add_mod_of_lt hlt]
    split_ifs <;> simp_all <;> omega
  · obtain rfl : n = r + 1 := by omega
    have hnext : a * (r + 1) + r + 1 = (a + 1) * (r + 1) + 0 := by ring
    rw [hnext, mul_add_div_of_lt hn, mul_add_mod_of_lt hn]
    split_ifs <;> simp_all <;> omega

theorem two_pow_dvd_depositFrom (v m k p w : Nat) : 2 ^ p ∣ depositFrom v m k p w := by
  induction w generalizing k p with
  | zero => exact dvd_zero _
  | succ w ih =>
    have hrest : ∀ k, 2 ^ p ∣ depositFrom v m k (p + 1) w := fun k => (pow_dvd_pow 2 (Nat.le_succ p)).trans (ih k (p + 1))
    rw [depositFrom]
    split_ifs
    · exact dvd_add (dvd_mul_left _ _) (hrest _)
    · exact hrest _

theorem two_pow_dvd_extractFrom (d m k p w : Nat) : 2 ^ k ∣ extractFrom d m k p w := by
  induction w generalizing k p with
  | zero => exact dvd_zero _
  | succ w ih =>
    rw [extractFrom]
    split_ifs
    · exact dvd_add (dvd_mul_left _ _) ((pow_dvd_pow 2 (Nat.le_succ k)).trans (ih (k + 1) (p + 1)))
    · exact ih k (p + 1)

/-- A bit below a multiple of a higher power: the bit at its position, the multiple above. -/
theorem testBit_bitAt_add {r k : Nat} (hr : 2 ^ (k + 1) ∣ r) (v j t : Nat) :
    (bitAt v j * 2 ^ k + r).testBit t = if t = k then v.testBit j else r.testBit t := by
  obtain ⟨a, rfl⟩ := hr
  have hlt : bitAt v j * 2 ^ k < 2 ^ (k + 1) := by
    rw [pow_succ, Nat.mul_comm (2 ^ k)]
    exact Nat.mul_lt_mul_of_pos_right (bitAt_lt_two v j) (Nat.two_pow_pos k)
  have hlow := testBit_add_bitAt (a := 0) (Nat.two_pow_pos k) v j t
  rw [Nat.zero_add] at hlow
  rw [Nat.add_comm, Nat.testBit_two_pow_mul_add _ hlt, Nat.testBit_two_pow_mul, hlow]
  obtain hlt | rfl | hgt := Nat.lt_trichotomy t k
  · simp [show t < k + 1 by omega, hlt, show t ≠ k by omega, show ¬ k + 1 ≤ t by omega]
  · simp
  · simp [show ¬ t < k + 1 by omega, show t ≠ k by omega, show k + 1 ≤ t by omega]

section
variable {i n b : Nat}

/-- From position `p` up, depositing under the mask gives the expanded value. -/
theorem testBit_depositFrom_mask (hi : i < n) (hwidth : n * b ≤ 64) (v w p q : Nat) (hp : p + w = 64) :
    (depositFrom v (mask i n b) (maskRank i n b p) p w).testBit q
      = (decide (p ≤ q) && (expand v i n b).testBit q) := by
  induction w generalizing p with
  | zero =>
    rw [depositFrom, Nat.zero_testBit]
    obtain hq | hq := Nat.lt_or_ge q p
    · simp [Nat.not_le.mpr hq]
    · have hlt := (expand_lt v hi b).trans_le (Nat.pow_le_pow_right (show 0 < 2 by decide)
        (show b * n ≤ q by rw [Nat.mul_comm]; omega))
      simp [Nat.testBit_lt_two_pow hlt]
  | succ w ih =>
    have hsucc := maskRank_succ hi b p
    rw [depositFrom]
    split_ifs at hsucc ⊢ with hbit
    · obtain ⟨hrank, hpos⟩ := maskRank_of_testBit hi hbit
      rw [testBit_bitAt_add (two_pow_dvd_depositFrom ..), ← hsucc, ih (p + 1) (by omega)]
      split_ifs with hq
      · subst hq
        rw [testBit_expand v hi, hpos, mul_add_div_of_lt hi, mul_add_mod_of_lt hi, ← hpos]
        simp [hrank]
      · simp only [show p + 1 ≤ q ↔ p ≤ q by omega]
    · rw [← hsucc, ih (p + 1) (by omega)]
      obtain rfl | hq := eq_or_ne q p
      · have hzero : (expand v i n b).testBit q = false := by
          rw [testBit_mask hi, Bool.not_eq_true] at hbit
          simp only [← div_lt_iff (show 0 < n by omega)] at hbit
          rw [testBit_expand v hi, hbit, Bool.false_and]
        simp [hzero]
      · simp only [show p + 1 ≤ q ↔ p ≤ q by omega]

/-- From position `p` up, extracting under the mask gives the removed value from the rank of `p` up. -/
theorem testBit_extractFrom_mask (hi : i < n) (hwidth : n * b ≤ 64) (d w p t : Nat) (hp : p + w = 64) :
    (extractFrom d (mask i n b) (maskRank i n b p) p w).testBit t
      = (decide (maskRank i n b p ≤ t) && (remove d i n b).testBit t) := by
  induction w generalizing p with
  | zero =>
    rw [extractFrom, Nat.zero_testBit, maskRank_of_le (by omega) (by omega), testBit_remove]
    obtain ht | ht := Nat.lt_or_ge t b
    · simp [Nat.not_le.mpr ht]
    · simp [Nat.not_lt.mpr ht]
  | succ w ih =>
    have hsucc := maskRank_succ hi b p
    rw [extractFrom]
    split_ifs at hsucc ⊢ with hbit
    · obtain ⟨hrank, hpos⟩ := maskRank_of_testBit hi hbit
      rw [testBit_bitAt_add (two_pow_dvd_extractFrom ..), ← hsucc, ih (p + 1) (by omega), hsucc]
      split_ifs with ht
      · rw [testBit_remove, ht, ← hpos]
        simp [hrank]
      · simp only [show maskRank i n b p + 1 ≤ t ↔ maskRank i n b p ≤ t by omega]
    · rw [← hsucc, ih (p + 1) (by omega)]

end

/-- Settles O33: both walks keep the number of mask bits met, which is the rank of the position. -/
theorem depositExtractAgree : Obligations.DepositExtractAgree := by
  unfold Obligations.DepositExtractAgree
  rintro n b i ⟨-, -, -, -, hwidth⟩ hi
  refine ⟨fun p => testBit_mask hi b p, fun v => Nat.eq_of_testBit_eq fun q => ?_,
    fun d => Nat.eq_of_testBit_eq fun t => ?_⟩
  · have h := testBit_depositFrom_mask hi hwidth v 64 0 q rfl
    rw [maskRank_zero] at h
    simpa [deposit] using h
  · have h := testBit_extractFrom_mask hi hwidth d 64 0 t rfl
    rw [maskRank_zero] at h
    simpa [extract] using h

/-! ### `ISETUP` (R183) -/

theorem isetupConfig_eq (n b : Nat) : isetupConfig n b =
    if n = 0 ∨ 64 < n then .error ⟨.eNdims, n⟩
    else if b = 0 ∨ 32 < b then .error ⟨.eIlvWidth, b⟩
    else if 64 < n * b then .error ⟨.eIlvWidth, n * b⟩
    else .ok { valid := true, n := BitVec.ofNat 8 n, b := BitVec.ofNat 8 b } := by
  simp only [isetupConfig, check_bind, Bool.or_eq_true, decide_eq_true_eq]
  rfl

theorem exec_isetup_error {rs1 rs2 : RegIx} {s : State} {e : Raised}
    (h : isetupConfig (s.reg rs1).toNat (s.reg rs2).toNat = .error e) :
    ∃ t, exec (.isetup rs1 rs2) s = .next t ∧ Trapped s t e :=
  ⟨s.raise e, by simp only [exec, execIsetup, h, State.trap], s.trapped e⟩

theorem exec_isetup_ok {rs1 rs2 : RegIx} {s : State} {k : Icfg}
    (h : isetupConfig (s.reg rs1).toNat (s.reg rs2).toNat = .ok k) :
    exec (.isetup rs1 rs2) s = .next { s with icfg := k } := by
  simp only [exec, execIsetup, h]

/-- Settles O29: the checks are a chain of conditions, each under the negations of those before it. -/
theorem isetupConstructs : Obligations.IsetupConstructs := by
  unfold Obligations.IsetupConstructs
  intro rs1 rs2 s n b hn hb
  have hconfig := isetupConfig_eq n b
  subst hn hb
  refine ⟨fun hbad => exec_isetup_error ?_, fun hn hn' => ⟨fun hbad => exec_isetup_error ?_, fun hb hb' =>
    ⟨fun hbad => exec_isetup_error ?_, fun hnb => ?_⟩⟩⟩
  · rw [hconfig, if_pos hbad]
  · rw [hconfig, if_neg (by omega), if_pos hbad]
  · rw [hconfig, if_neg (by omega), if_neg (by omega), if_pos hbad]
  · rw [if_neg (by omega), if_neg (by omega), if_neg (by omega)] at hconfig
    exact ⟨_, exec_isetup_ok hconfig, rfl, Nat.mod_eq_of_lt (by omega), Nat.mod_eq_of_lt (by omega), rfl, fun _ => rfl⟩

/-! ### `EXPAND` and `REMOVE` (R185, R187) -/

section
variable {s : State} {rd rs1 : RegIx} {dim : BitVec 8} {e : Raised}

theorem State.checkInterleaver_eq (s : State) (dim : BitVec 8) : s.checkInterleaver dim =
    if s.icfg.valid = false then .error ⟨.eNotConstructed, 2⟩
    else if s.icfg.n.toNat ≤ dim.toNat then .error ⟨.eDimIndex, dim.toNat⟩ else .ok s.icfg := by
  simp only [State.checkInterleaver, check_bind, Bool.not_eq_true', decide_eq_true_eq]
  rfl

theorem State.checkInterleaver_of_dim (hvalid : s.icfg.valid = true) (hdim : s.icfg.n.toNat ≤ dim.toNat) :
    s.checkInterleaver dim = .error ⟨.eDimIndex, dim.toNat⟩ := by
  rw [State.checkInterleaver_eq, if_neg (by simp [hvalid]), if_pos hdim]

theorem exec_expand_error (h : s.checkInterleaver dim = .error e) :
    ∃ t, exec (.expand rd rs1 dim) s = .next t ∧ Trapped s t e :=
  ⟨s.raise e, by simp only [exec, execExpand, h, State.trap], s.trapped e⟩

theorem exec_remove_error (h : s.checkInterleaver dim = .error e) :
    ∃ t, exec (.remove rd rs1 dim) s = .next t ∧ Trapped s t e :=
  ⟨s.raise e, by simp only [exec, execRemove, h, State.trap], s.trapped e⟩

end

/-- What a command that writes `r[rd]` alone leaves behind. -/
theorem State.setReg_frame (s : State) (rd : RegIx) (v : Word) : (∀ j, j ≠ rd → (s.setReg rd v).reg j = s.reg j)
    ∧ SameBesidesRegs s (s.setReg rd v) ∧ SameMemory s (s.setReg rd v) :=
  ⟨fun j hj => s.reg_setReg_other rd j v hj, rfl, fun _ => rfl⟩

theorem getLsbD_ofNat_word {x p : Nat} (hp : p < 64) : (BitVec.ofNat 64 x).getLsbD p = x.testBit p := by
  rw [BitVec.getLsbD_ofNat, decide_eq_true hp, Bool.true_and]

/-- Settles O30: past its checks `EXPAND` writes the expanded value, whose bits `testBit_expand` gives. -/
theorem expandDepositsBits : Obligations.ExpandDepositsBits := by
  unfold Obligations.ExpandDepositsBits
  refine fun rd rs1 dim s => ⟨fun hvalid => exec_expand_error ?_,
    fun hvalid hdim => exec_expand_error (State.checkInterleaver_of_dim hvalid hdim), fun _ hvalid hdim => ?_⟩
  · rw [State.checkInterleaver_eq, if_pos hvalid]
  · refine ⟨s.setReg rd (BitVec.ofNat 64 (expand (s.reg rs1).toNat dim.toNat s.icfg.n.toNat s.icfg.b.toNat)), ?_,
      fun p hp => ?_, s.setReg_frame rd _⟩
    · simp only [exec, execExpand, State.checkInterleaver_ok.mpr ⟨hvalid, hdim, rfl⟩]
    · rw [State.reg_setReg_same, getLsbD_ofNat_word hp, testBit_expand _ hdim, BitVec.testBit_toNat]
      simp only [div_lt_iff (show 0 < s.icfg.n.toNat by omega)]

/-- Settles O31: past its checks `REMOVE` writes the gathered value, whose bits `testBit_remove` gives. -/
theorem removeGathersBits : Obligations.RemoveGathersBits := by
  unfold Obligations.RemoveGathersBits
  refine fun rd rs1 dim s => ⟨fun hvalid => exec_remove_error ?_,
    fun hvalid hdim => exec_remove_error (State.checkInterleaver_of_dim hvalid hdim), fun _ hvalid hdim => ?_⟩
  · rw [State.checkInterleaver_eq, if_pos hvalid]
  · refine ⟨s.setReg rd (BitVec.ofNat 64 (remove (s.reg rs1).toNat dim.toNat s.icfg.n.toNat s.icfg.b.toNat)), ?_,
      fun j hj => ?_, s.setReg_frame rd _⟩
    · simp only [exec, execRemove, State.checkInterleaver_ok.mpr ⟨hvalid, hdim, rfl⟩]
    · rw [State.reg_setReg_same, getLsbD_ofNat_word hj, testBit_remove, BitVec.testBit_toNat]

/-! ### `CSETUP` (R141) -/

/-- Two checks that raise the same fault are one. -/
theorem if_error_if_error {α : Type} {p q : Prop} [Decidable p] [Decidable q] (e : Raised) (x : Except Raised α) :
    (if p then .error e else if q then .error e else x) = if p ∨ q then .error e else x := by
  split_ifs <;> simp_all

theorem csetupChecks_eq (k : CurveType) (n l : Nat) : csetupChecks k n l =
    if (n = 0 ∨ 64 < n) ∨ k = .hilbert ∧ n ≠ 2 then .error ⟨.eNdims, n⟩
    else if (l ≤ 1 ∨ 2 ^ 32 < l) ∨ k ≠ .rowMajor ∧ isPowerOfTwo l = false then .error ⟨.eExtent, l⟩
    else if (k = .morton ∨ k = .gray) ∧ 2 ^ min 32 (64 / n) < l then .error ⟨.eIlvWidth, n⟩
    else if 2 ^ 64 ≤ l ^ n then .error ⟨.eTotalOverflow, n⟩
    else .ok { valid := true, type := k, n := BitVec.ofNat 8 n, l := BitVec.ofNat 40 l } := by
  simp only [csetupChecks, check_bind, if_error_if_error, Bool.or_eq_true, Bool.and_eq_true, decide_eq_true_eq,
    needsPowerOfTwo_iff, usesInterleave_iff, Bool.not_eq_true']
  rfl

theorem curveTypeOf_of_number : ∀ (type : BitVec 3) (k : CurveType), type.toNat = curveTypeNumber k →
    curveTypeOf type = some k := by
  intro type k
  cases k <;> revert type <;> decide

theorem curveTypeOf_none : ∀ type : BitVec 3, type ≠ 0 ∧ type ≠ 2 ∧ type ≠ 3 ∧ type ≠ 4 → curveTypeOf type = none := by
  decide

section
variable {slot : SlotId} {type : BitVec 3} {rs1 rs2 : RegIx} {s : State}

theorem exec_csetup_error {e : Raised} (h : csetupSlot type (s.reg rs1).toNat (s.reg rs2).toNat = .error e) :
    ∃ t, exec (.csetup slot type rs1 rs2) s = .next t ∧ Trapped s t e :=
  ⟨s.raise e, by simp only [exec, execCsetup, h, State.trap], s.trapped e⟩

theorem exec_csetup_ok {k : CurveSlot} (h : csetupSlot type (s.reg rs1).toNat (s.reg rs2).toNat = .ok k) :
    exec (.csetup slot type rs1 rs2) s = .next (s.setSlot slot k) := by
  simp only [exec, execCsetup, h]

end

/-- Settles O20: the checks are a chain of conditions, each under the negations of those before it. -/
theorem csetupConstructs : Obligations.CsetupConstructs := by
  unfold Obligations.CsetupConstructs
  intro slot type rs1 rs2 s n l hn hl
  have hpow : isPowerOfTwo l = false ↔ ¬ ∃ e, l = 2 ^ e := by rw [← isPowerOfTwo_iff, Bool.not_eq_true]
  refine ⟨fun htype => exec_csetup_error ?_, fun k hk => ?_⟩
  · rw [csetupSlot, curveTypeOf_none type htype]
  have hslot : csetupSlot type n l = csetupChecks k n l := by rw [csetupSlot, curveTypeOf_of_number type k hk]
  rw [csetupChecks_eq] at hslot
  simp only [or_assoc] at hslot
  simp only [← hpow]
  refine ⟨fun hbad => exec_csetup_error ?_, fun hdims => ⟨fun hbad => exec_csetup_error ?_, fun hext =>
    ⟨fun hbad => exec_csetup_error ?_, fun hwidth => ⟨fun hbad => exec_csetup_error ?_, fun htotal => ?_⟩⟩⟩⟩
  · rw [← hn, ← hl, hslot, if_pos hbad]
  · rw [← hn, ← hl, hslot, if_neg hdims, if_pos hbad]
  · rw [← hn, ← hl, hslot, if_neg hdims, if_neg hext, if_pos hbad]
  · rw [← hn, ← hl, hslot, if_neg hdims, if_neg hext, if_neg hwidth, if_pos hbad]
  · rw [if_neg hdims, if_neg hext, if_neg hwidth, if_neg (Nat.not_le.mpr htotal), hn, hl] at hslot
    refine ⟨_, exec_csetup_ok hslot, ?_⟩
    rw [State.slot_setSlot_same, ← hn, ← hl]
    exact ⟨rfl, rfl, Nat.mod_eq_of_lt (by omega), Nat.mod_eq_of_lt (by omega), fun j hj => s.slot_setSlot_other _ _ _ hj,
      SameBesidesSlots.setSlot .., SameMemory.setSlot s _ _⟩

/-! ### `C2D` (R150) -/

section
variable {s : State} {slot : SlotId} {e : Raised}

@[simp] theorem State.length_coordList (s : State) (n : Nat) : (s.coordList n).length = n := by simp [State.coordList]

@[simp] theorem State.getElem_coordList (s : State) {n i : Nat} (hi : i < (s.coordList n).length) :
    (s.coordList n)[i] = (s.coord i).toNat := by
  simp [State.coordList]

theorem exec_c2d_of_not_valid {rd : RegIx} (h : (s.slot slot).valid = false) :
    ∃ t, exec (.c2d rd slot) s = .next t ∧ Trapped s t ⟨.eNotConstructed, slotNumber slot⟩ :=
  ⟨_, by simp only [exec, execC2d, State.checkSlot_error.mpr ⟨h, rfl⟩, State.trap], s.trapped _⟩

theorem exec_c2d_error {rd : RegIx} (h : (s.slot slot).valid = true)
    (hdist : c2dDist (s.slot slot) (s.coordList (s.slot slot).n.toNat) = .error e) :
    ∃ t, exec (.c2d rd slot) s = .next t ∧ Trapped s t e :=
  ⟨_, by simp only [exec, execC2d, State.checkSlot_ok.mpr ⟨h, rfl⟩, hdist, State.trap], s.trapped _⟩

theorem exec_c2d_ok {rd : RegIx} {d : Nat} (h : (s.slot slot).valid = true)
    (hdist : c2dDist (s.slot slot) (s.coordList (s.slot slot).n.toNat) = .ok d) :
    exec (.c2d rd slot) s = .next (s.setReg rd (BitVec.ofNat 64 d)) := by
  simp only [exec, execC2d, State.checkSlot_ok.mpr ⟨h, rfl⟩, hdist]

/-- The lowest coordinate outside the curve is the one reported. -/
theorem c2dDist_error {k : CurveSlot} {xs : List Nat} {i : Nat} (hi : i < xs.length) (hbad : k.l.toNat ≤ xs[i])
    (hfirst : ∀ j (hj : j < i), xs[j] < k.l.toNat) : c2dDist k xs = .error ⟨.eCoordRange, i⟩ := by
  have hfind : xs.findIdx? (fun x => decide (k.l.toNat ≤ x)) = some i :=
    List.findIdx?_eq_some_iff_getElem.mpr ⟨hi, decide_eq_true hbad, fun j hj => by simpa using hfirst j hj⟩
  rw [c2dDist, hfind]

theorem c2dDist_ok {k : CurveSlot} {xs : List Nat} (hxs : ∀ x ∈ xs, x < k.l.toNat) :
    c2dDist k xs = .ok (coordsToDist k.type xs k.n.toNat k.l.toNat) := by
  have hfind : xs.findIdx? (fun x => decide (k.l.toNat ≤ x)) = none :=
    List.findIdx?_eq_none_iff.mpr fun x hx => by simpa using hxs x hx
  rw [c2dDist, hfind]

end

/-- Settles O22: past the slot check the lowest coordinate outside the curve decides. -/
theorem c2dComputesDistance : Obligations.C2dComputesDistance := by
  unfold Obligations.C2dComputesDistance
  refine fun rd slot s => ⟨exec_c2d_of_not_valid, fun i hvalid hi hbad hfirst => ?_, fun hok hvalid hcoords => ?_⟩
  · exact exec_c2d_error hvalid (c2dDist_error (by simpa using hi) (by simpa using hbad)
      (fun j hj => by simpa using hfirst j hj))
  · have hlt : ∀ x ∈ s.coordList (s.slot slot).n.toNat, x < (s.slot slot).l.toNat := fun x hx => by
      obtain ⟨i, hi, rfl⟩ := List.mem_map.mp hx
      exact hcoords i (List.mem_range.mp hi)
    have hlegal := hok hvalid
    obtain ⟨-, -, -, -, -, -, -, htotal⟩ := id hlegal
    obtain ⟨hdist, -⟩ := (curvesAreBijections _ _ _ hlegal).2 _ (s.length_coordList _) hlt
    refine ⟨_, exec_c2d_ok hvalid (c2dDist_ok hlt), ?_⟩
    rw [State.reg_setReg_same, BitVec.toNat_ofNat, Nat.mod_eq_of_lt (hdist.trans htotal)]
    exact ⟨rfl, hdist, s.setReg_frame rd _⟩

/-! ### `D2C` (R151) -/

theorem State.coord_of_ge (s : State) {i : Nat} (hi : 64 ≤ i) : s.coord i = 0 := dif_neg (Nat.not_lt.mpr hi)

theorem exec_d2c_of_valid {rs1 : RegIx} {slot : SlotId} {s : State} (h : (s.slot slot).valid = true) :
    exec (.d2c rs1 slot) s =
      if slotTotal (s.slot slot) ≤ (s.reg rs1).toNat then s.trap ⟨.eDistRange, (s.reg rs1).toNat⟩
      else .next (s.setCoords
        (distToCoords (s.slot slot).type (s.reg rs1).toNat (s.slot slot).n.toNat (s.slot slot).l.toNat)) := by
  simp only [exec, execD2c, State.checkSlot_ok.mpr ⟨h, rfl⟩]

/-- Settles O23: past its checks `D2C` writes the coordinates of the distance. -/
theorem d2cComputesCoordinates : Obligations.D2cComputesCoordinates := by
  unfold Obligations.D2cComputesCoordinates
  refine fun rs1 slot s => ⟨fun hvalid => ⟨_, ?_, s.trapped _⟩, fun hvalid hd => ⟨_, ?_, s.trapped _⟩,
    fun hok hvalid hd => ?_⟩
  · simp only [exec, execD2c, State.checkSlot_error.mpr ⟨hvalid, rfl⟩, State.trap]
  · exact (exec_d2c_of_valid hvalid).trans (if_pos hd)
  · have hlegal := hok hvalid
    obtain ⟨-, hn, -, -, hl, -⟩ := id hlegal
    obtain ⟨hlen, hlt, -⟩ := (curvesAreBijections _ _ _ hlegal).1 _ hd
    refine ⟨_, _, (exec_d2c_of_valid hvalid).trans (if_neg (Nat.not_le.mpr hd)), rfl, hlen, hlt, fun i hi => ?_,
      fun i hi => ?_, ?_, fun a => ?_⟩
    · have hi' := hlen.symm ▸ hi
      rw [s.coord_setCoords _ i (by omega), dif_pos hi', List.getElem?_eq_getElem hi', BitVec.toNat_ofNat,
        Nat.mod_eq_of_lt ((hlt _ (List.getElem_mem hi')).trans_le hl)]
    · obtain h64 | h64 := Nat.lt_or_ge i 64
      · rw [s.coord_setCoords _ i h64, dif_neg (by omega)]
      · rw [State.coord_of_ge _ h64, State.coord_of_ge _ h64]
    · rw [SameBesidesCoords, State.setCoords_eq]
    · simp [State.readByte]

end Sys2Proof.Machine


/-! PROOFS. The laws of the reorderer (43_reorder.md R207, R210): the rearranged elements are determined by the targets, so
both strategies agree, and the way back undoes the way there. -/

namespace Sys2Proof.Machine

/-! ### Elements and bytes -/

theorem elements_lt {ew n : Nat} {bs : List Byte} : ∀ x ∈ elements ew n bs, x < 256 ^ ew := by
  induction n generalizing bs with
  | zero => exact nofun
  | succ n ih =>
    refine List.forall_mem_cons.mpr ⟨(leValue_lt _).trans_le ?_, ih⟩
    exact Nat.pow_le_pow_right (by decide) (List.length_take_le ..)

theorem State.readElems_lt (s : State) (base ew n : Nat) : ∀ x ∈ s.readElems base ew n, x < 256 ^ ew := elements_lt

/-- Elements that fit are what their bytes hold. -/
theorem elements_serialize_of_lt {ew : Nat} {xs : List Nat} (hxs : ∀ x ∈ xs, x < 256 ^ ew) :
    elements ew xs.length (serialize ew xs) = xs := by
  have h := elements_serialize ew xs []
  rw [List.append_nil] at h
  rw [h]
  exact (List.map_congr_left fun x hx => Nat.mod_eq_of_lt (hxs x hx)).trans (List.map_id xs)

/-- Bytes are the bytes of the elements they hold. -/
theorem serialize_elements {ew n : Nat} {bs : List Byte} (hlen : bs.length = n * ew) :
    serialize ew (elements ew n bs) = bs := by
  induction n generalizing bs with
  | zero =>
    rw [Nat.zero_mul, List.length_eq_zero_iff] at hlen
    rw [hlen]; rfl
  | succ n ih =>
    have htake : (bs.take ew).length = ew := by
      rw [List.length_take, hlen, Nat.succ_mul]; omega
    have hfirst := leBytes_leValue (bs.take ew)
    rw [htake] at hfirst
    have hrest : serialize ew (elements ew n (bs.drop ew)) = bs.drop ew :=
      ih (by rw [List.length_drop, hlen, Nat.succ_mul]; omega)
    rw [serialize] at hrest
    rw [elements, serialize, List.flatMap_cons, hrest, hfirst, List.take_append_drop]

theorem State.serialize_readElems (s : State) (base ew n : Nat) :
    serialize ew (s.readElems base ew n) = s.readBytes base (n * ew) :=
  serialize_elements (s.length_readBytes _ _)

theorem State.getD_readBytes (s : State) (a : Nat) {n i : Nat} (hi : i < n) :
    (s.readBytes a n).getD i 0 = s.readByte (a + i) := by
  rw [List.getD_eq_getElem?_getD, s.getElem?_readBytes a n i hi, Option.getD_some]

/-! ### Rearranged elements are determined by the targets -/

section
variable {pi : Nat → Nat} {n : Nat} {data out out' : List Nat}

/-- Every index is a target. -/
theorem PermutesBelow.exists_preimage (hpi : PermutesBelow pi n) {j : Nat} (hj : j < n) : ∃ i < n, pi i = j := by
  let f : Fin n → Fin n := fun i => ⟨pi i, hpi.lt i.isLt⟩
  have hf : Function.Injective f := fun i k h => Fin.ext (hpi.inj i.isLt k.isLt (congrArg Fin.val h))
  obtain ⟨i, hi⟩ := (Finite.injective_iff_surjective.mp hf) ⟨j, hj⟩
  exact ⟨i, i.isLt, congrArg Fin.val hi⟩

theorem Rearranged.unique (hpi : PermutesBelow pi data.length) (h : Rearranged pi data out)
    (h' : Rearranged pi data out') : out = out' := by
  obtain ⟨hlen, hmoved⟩ := h
  obtain ⟨hlen', hmoved'⟩ := h'
  refine List.ext_getElem (hlen.trans hlen'.symm) fun j hj hj' => ?_
  obtain ⟨i, hi, rfl⟩ := hpi.exists_preimage (hlen ▸ hj)
  rw [← List.getD_eq_getElem _ 0 hj, ← List.getD_eq_getElem _ 0 hj', hmoved i hi, hmoved' i hi]

/-- Rearranging moves elements and makes no new ones. -/
theorem Rearranged.forall_mem (hpi : PermutesBelow pi data.length) (h : Rearranged pi data out) {p : Nat → Prop}
    (hp : ∀ x ∈ data, p x) : ∀ x ∈ out, p x := by
  obtain ⟨hlen, hmoved⟩ := h
  intro x hx
  obtain ⟨j, hj, rfl⟩ := List.mem_iff_getElem.mp hx
  obtain ⟨i, hi, rfl⟩ := hpi.exists_preimage (hlen ▸ hj)
  rw [← List.getD_eq_getElem _ 0 hj, hmoved i hi, List.getD_eq_getElem _ 0 hi]
  exact hp _ (List.getElem_mem hi)

/-- Targets that lead back undo the rearrangement. -/
theorem Rearranged.symm {back : Nat → Nat} (hpi : PermutesBelow pi data.length)
    (hback : ∀ i < data.length, back (pi i) = i) (h : Rearranged pi data out) : Rearranged back out data := by
  obtain ⟨hlen, hmoved⟩ := h
  refine ⟨hlen.symm, fun j hj => ?_⟩
  obtain ⟨i, hi, rfl⟩ := hpi.exists_preimage (hlen ▸ hj)
  rw [hback i hi, hmoved i hi]

end

/-! ### The checks and the targets -/

section
variable {s : State} {f g : SlotId}

/-- What the checks of a reorder command say once they pass (R202). -/
theorem State.reorderChecks_ok {cf cg : CurveSlot} (h : s.reorderChecks f g = .ok (cf, cg)) :
    cf = s.slot f ∧ cg = s.slot g ∧ (s.slot f).valid = true ∧ (s.slot g).valid = true ∧ (s.slot f).n = (s.slot g).n
      ∧ (s.slot f).l = (s.slot g).l ∧ s.len.toNat = (s.slot f).l.toNat ^ (s.slot f).n.toNat := by
  rw [State.reorderChecks_eq_bind] at h
  obtain ⟨-, -, h⟩ := bind_ok.mp h
  cases hf : (s.slot f).valid with
  | false => rw [State.pairChecks_of_not_valid_from hf] at h; cases h
  | true =>
    cases hg : (s.slot g).valid with
    | false => rw [State.pairChecks_of_not_valid_to hf hg] at h; cases h
    | true =>
      rw [State.pairChecks_of_valid hf hg] at h
      split_ifs at h with hsame hlen
      cases h
      exact ⟨rfl, rfl, rfl, rfl, hsame.1, hsame.2, hlen⟩

/-- The index on curve `f` of the cell whose index on curve `g` is the target of `i` is `i` (R201). -/
theorem reorderTarget_reorderTarget {a b : CurveSlot} (ha : LegalCurve a.type a.n.toNat a.l.toNat)
    (hb : LegalCurve b.type b.n.toNat b.l.toNat) (hn : a.n = b.n) (hl : a.l = b.l) {i : Nat}
    (hi : i < a.l.toNat ^ a.n.toNat) : reorderTarget b a (reorderTarget a b i) = i := by
  obtain ⟨hlen, hlt, hindex⟩ := (curvesAreBijections _ _ _ ha).1 i hi
  have htarget := reorderTarget_coordsToDist (g := a) (xs := distToCoords a.type i a.n.toNat a.l.toNat) hb
    (by rw [hlen, hn]) (by rwa [← hl])
  rwa [hindex] at htarget

end

/-- Settles O36: where the checks pass, both strategies rearrange the elements along the same permutation, and that
determines the result. -/
theorem reorderStrategiesAgree : Obligations.ReorderStrategiesAgree := by
  unfold Obligations.ReorderStrategiesAgree
  intro f g s hokf hokg
  cases hchecks : s.reorderChecks f g with
  | error e =>
    simp only [exec, execReordi, execReordt, hchecks]
    rfl
  | ok c =>
    obtain ⟨cf, cg⟩ := c
    obtain ⟨rfl, rfl, hf, hg, hn, hl, hlen⟩ := State.reorderChecks_ok hchecks
    have hpi := reorderTarget_permutes (hokf hf) (hokg hg) hn hl
    rw [← hlen] at hpi
    obtain ⟨out, hout, hexec⟩ := exec_of_reorderChecks_ok (.inl rfl) hchecks hpi
    obtain ⟨out', hout', hexec'⟩ := exec_of_reorderChecks_ok (.inr rfl) hchecks hpi
    rw [← s.length_inElems] at hpi
    rw [hexec, hexec', hout.unique hpi hout']

/-! ### The way there and back -/

/-- The state after a reorder command has written the elements `xs` back (R203, R206). -/
def State.withElems (s : State) (xs : List Nat) : State :=
  { s.writeBytes s.pa.toNat (serialize s.ew.toNat xs) with olen := 0 }

section
variable {s : State} {xs : List Nat}

@[simp] theorem State.slot_withElems (k : SlotId) : (s.withElems xs).slot k = s.slot k := by cases k <;> rfl

/-- The elements written back are the elements then read. -/
theorem State.inElems_withElems (hlen : xs.length = s.len.toNat) (hlt : ∀ x ∈ xs, x < 256 ^ s.ew.toNat) :
    (s.withElems xs).inElems = xs := by
  have hbytes := s.readBytes_writeBytes_same s.pa.toNat (serialize s.ew.toNat xs)
  have hsame : SameMemory (s.writeBytes s.pa.toNat (serialize s.ew.toNat xs)) (s.withElems xs) := fun _ => rfl
  rw [length_serialize, hlen] at hbytes
  change elements s.ew.toNat s.len.toNat ((s.withElems xs).readBytes s.pa.toNat (s.len.toNat * s.ew.toNat)) = xs
  rw [hsame.readBytes, hbytes, ← hlen, elements_serialize_of_lt hlt]

theorem State.readByte_withElems (hlen : xs.length = s.len.toNat) (a : Nat) : (s.withElems xs).readByte a =
    if s.pa.toNat ≤ a ∧ a < s.pa.toNat + s.len.toNat * s.ew.toNat then (serialize s.ew.toNat xs).getD (a - s.pa.toNat) 0
    else s.readByte a := by
  have h := s.readByte_writeBytes s.pa.toNat a (serialize s.ew.toNat xs)
  rwa [length_serialize, hlen] at h

/-- Writing back the elements of the region after other elements restores every byte. -/
theorem State.sameMemory_withElems_inElems (hlen : xs.length = s.len.toNat) :
    SameMemory s ((s.withElems xs).withElems s.inElems) := by
  intro a
  have hlen' : s.inElems.length = (s.withElems xs).len.toNat := s.length_inElems
  rw [State.readByte_withElems hlen', State.readByte_withElems hlen]
  change (if s.pa.toNat ≤ a ∧ a < s.pa.toNat + s.len.toNat * s.ew.toNat then
    (serialize s.ew.toNat s.inElems).getD (a - s.pa.toNat) 0 else _) = _
  split_ifs with ha
  · rw [State.inElems, State.serialize_readElems, s.getD_readBytes _ (by omega), Nat.add_sub_cancel' ha.1]
  · rfl

end

/-- The checks of a reorder command pass on two valid slots of the same cells (R202). -/
theorem State.reorderChecks_of_valid {s : State} {f g : SlotId} (hew : s.EwLegal)
    (hin : s.InputReady (s.len.toNat * s.ew.toNat)) (hf : (s.slot f).valid = true) (hg : (s.slot g).valid = true)
    (hn : (s.slot f).n = (s.slot g).n) (hl : (s.slot f).l = (s.slot g).l)
    (hlen : s.len.toNat = (s.slot f).l.toNat ^ (s.slot f).n.toNat) : s.reorderChecks f g = .ok (s.slot f, s.slot g) := by
  rw [State.reorderChecks_of_inputReady hew hin, State.pairChecks_of_valid hf hg, if_pos ⟨hn, hl⟩, if_pos hlen]

/-- Settles O37: the elements after the way there are the rearranged ones, the way back puts them where they came from,
and the bytes of the elements read at first are the bytes read at first. -/
theorem reorderRestores : Obligations.ReorderRestores := by
  unfold Obligations.ReorderRestores
  intro f g s i j hij hokf hokg hf hg hn hl hew hin hlen
  have hi : i = .reordi f g ∨ i = .reordt f g := hij.imp And.left And.left
  have hj : j = .reordi g f ∨ j = .reordt g f := hij.imp And.right And.right
  have hthere := reorderTarget_permutes (hokf hf) (hokg hg) hn hl
  have hback := reorderTarget_permutes (hokg hg) (hokf hf) hn.symm hl.symm
  rw [← hlen] at hthere
  rw [← hn, ← hl, ← hlen] at hback
  obtain ⟨out, hout, hexec⟩ := exec_of_reorderChecks_ok hi (State.reorderChecks_of_valid hew hin hf hg hn hl hlen) hthere
  rw [← s.length_inElems] at hthere
  have houtLen : out.length = s.len.toNat := hout.1.trans s.length_inElems
  have helems := State.inElems_withElems houtLen (hout.forall_mem hthere (s.readElems_lt _ _ _))
  have hchecks : (s.withElems out).reorderChecks g f = .ok (s.slot g, s.slot f) := by
    have h := State.reorderChecks_of_valid (s := s.withElems out) (f := g) (g := f) hew hin
    simp only [State.slot_withElems] at h
    exact h hg hf hn.symm hl.symm (hlen.trans (by rw [hn, hl]))
  obtain ⟨out', hout', hexec'⟩ := exec_of_reorderChecks_ok hj hchecks hback
  rw [helems] at hout'
  have hsymm : Rearranged (reorderTarget (s.slot g) (s.slot f)) out s.inElems :=
    hout.symm hthere fun i hi =>
      reorderTarget_reorderTarget (hokf hf) (hokg hg) hn hl (by rwa [← hlen, ← s.length_inElems])
  obtain rfl : out' = s.inElems := hout'.unique (houtLen.symm ▸ hback) hsymm
  exact ⟨_, _, hexec, hexec', rfl, State.sameMemory_withElems_inElems houtLen⟩

end Sys2Proof.Machine


/-! PROOFS. The move-to-front codec (45_mtf.md): the list between two elements is the recency order of the elements so far
followed by the alphabet's other values (R241), which gives the codes; decoding undoes encoding and encoding undoes
decoding (R251); and what the two commands deliver (R243 to R246). -/

namespace Sys2Proof.Machine

/-! ### The ends of a bulk command whose common checks pass (20_memory.md R67 to R69) -/

section
variable {s : State} {o : Host.Outcome State Fault Refusal} {checks : Except Raised Unit}
  {result : Unit → Except Raised BulkResult}

theorem State.delivers {b : BulkResult} {n : Nat} (ho : o = s.finishBulk checks result) (hc : checks = .ok ())
    (hr : result () = .ok b) (hn : b.out.length = n) (hb : n ≤ s.cap.toNat) :
    ∃ t, o = .next t ∧ t.olen.toNat = n ∧ Delivered s t b := by
  subst hn
  have hcap := s.cap.isLt
  refine ⟨_, ho.trans (State.finishBulk_ok hc hr hb), ?_, s.delivered b⟩
  rw [State.complete_olen, BitVec.toNat_ofNat, Nat.mod_eq_of_lt (by omega)]

theorem State.raisesCap {b : BulkResult} {n : Nat} (ho : o = s.finishBulk checks result) (hc : checks = .ok ())
    (hr : result () = .ok b) (hn : b.out.length = n) (hb : s.cap.toNat < n) :
    ∃ t, o = .next t ∧ TrappedLosingOutput s t ⟨.eCap, n⟩ := by
  subst hn
  exact ⟨_, ho.trans (State.finishBulk_cap hc hr hb), s.trappedLosingOutput _⟩

theorem State.raises {e : Raised} (ho : o = s.finishBulk checks result) (hc : checks = .ok ())
    (hr : result () = .error e) : ∃ t, o = .next t ∧ TrappedLosingOutput s t e :=
  ⟨_, ho.trans (State.finishBulk_error hc hr), s.trappedLosingOutput _⟩

end

theorem pure_bind_ok {α β : Type} {x : Except Raised α} {a : α} (h : x = .ok a) (f : α → Except Raised β) :
    (x >>= f) = f a := by
  rw [h]; rfl

theorem bind_of_error {α β : Type} {x : Except Raised α} {e : Raised} (h : x = .error e) (f : α → Except Raised β) :
    (x >>= f) = .error e := by
  rw [h]; rfl

/-! ### Least and greatest elements -/

theorem foldl_min_le (xs : List Nat) (a : Nat) : xs.foldl min a ≤ a ∧ (∀ x ∈ xs, xs.foldl min a ≤ x)
    ∧ (xs.foldl min a = a ∨ xs.foldl min a ∈ xs) := by
  induction xs generalizing a with
  | nil => simp
  | cons x xs ih =>
    obtain ⟨hle, hall, hmem⟩ := ih (min a x)
    rw [List.foldl_cons]
    refine ⟨by omega, List.forall_mem_cons.mpr ⟨by omega, hall⟩, ?_⟩
    obtain heq | hmem := hmem
    · obtain hmin | hmin := Nat.le_total a x
      · exact .inl (heq.trans (Nat.min_eq_left hmin))
      · exact .inr (List.mem_cons.mpr (.inl (heq.trans (Nat.min_eq_right hmin))))
    · exact .inr (List.mem_cons_of_mem _ hmem)

theorem le_foldl_max (xs : List Nat) (a : Nat) : a ≤ xs.foldl max a ∧ (∀ x ∈ xs, x ≤ xs.foldl max a)
    ∧ (xs.foldl max a = a ∨ xs.foldl max a ∈ xs) := by
  induction xs generalizing a with
  | nil => simp
  | cons x xs ih =>
    obtain ⟨hle, hall, hmem⟩ := ih (max a x)
    rw [List.foldl_cons]
    refine ⟨by omega, List.forall_mem_cons.mpr ⟨by omega, hall⟩, ?_⟩
    obtain heq | hmem := hmem
    · obtain hmax | hmax := Nat.le_total a x
      · exact .inr (List.mem_cons.mpr (.inl (heq.trans (Nat.max_eq_right hmax))))
      · exact .inl (heq.trans (Nat.max_eq_left hmax))
    · exact .inr (List.mem_cons_of_mem _ hmem)

theorem blockMin_le {xs : List Nat} {x : Nat} (hx : x ∈ xs) : blockMin xs ≤ x := by
  cases xs with
  | nil => cases hx
  | cons y ys =>
    obtain ⟨hle, hall, -⟩ := foldl_min_le ys y
    obtain rfl | hx := List.mem_cons.mp hx
    exacts [hle, hall x hx]

theorem le_blockMax {xs : List Nat} {x : Nat} (hx : x ∈ xs) : x ≤ blockMax xs := by
  cases xs with
  | nil => cases hx
  | cons y ys =>
    obtain ⟨hle, hall, -⟩ := le_foldl_max ys y
    obtain rfl | hx := List.mem_cons.mp hx
    exacts [hle, hall x hx]

theorem blockMin_mem {xs : List Nat} (h : xs ≠ []) : blockMin xs ∈ xs := by
  cases xs with
  | nil => exact absurd rfl h
  | cons y ys =>
    obtain ⟨-, -, heq | hmem⟩ := foldl_min_le ys y
    · exact List.mem_cons.mpr (.inl heq)
    · exact List.mem_cons_of_mem _ hmem

theorem blockMax_mem {xs : List Nat} (h : xs ≠ []) : blockMax xs ∈ xs := by
  cases xs with
  | nil => exact absurd rfl h
  | cons y ys =>
    obtain ⟨-, -, heq | hmem⟩ := le_foldl_max ys y
    · exact List.mem_cons.mpr (.inl heq)
    · exact List.mem_cons_of_mem _ hmem

/-- An element below all others is the minimum, one above all others the maximum. -/
theorem blockMin_eq {xs : List Nat} {mn : Nat} (hmem : mn ∈ xs) (hle : ∀ x ∈ xs, mn ≤ x) : blockMin xs = mn :=
  Nat.le_antisymm (blockMin_le hmem) (hle _ (blockMin_mem (List.ne_nil_of_mem hmem)))

theorem blockMax_eq {xs : List Nat} {mx : Nat} (hmem : mx ∈ xs) (hle : ∀ x ∈ xs, x ≤ mx) : blockMax xs = mx :=
  Nat.le_antisymm (hle _ (blockMax_mem (List.ne_nil_of_mem hmem))) (le_blockMax hmem)

/-! ### The alphabet and moving to the front (R241) -/

theorem mem_alphabet {mn mx x : Nat} (h : mn ≤ mx) : x ∈ alphabet mn mx ↔ mn ≤ x ∧ x ≤ mx := by
  rw [alphabet, List.mem_range'_1]
  omega

theorem mem_alphabet_block {xs : List Nat} : ∀ x ∈ xs, x ∈ alphabet (blockMin xs) (blockMax xs) := fun _ hx =>
  (mem_alphabet ((blockMin_le hx).trans (le_blockMax hx))).mpr ⟨blockMin_le hx, le_blockMax hx⟩

@[simp] theorem length_alphabet (mn mx : Nat) : (alphabet mn mx).length = mx - mn + 1 := List.length_range'

theorem nodup_alphabet (mn mx : Nat) : (alphabet mn mx).Nodup := List.nodup_range'

theorem moveToFront_of_lt {list : List Nat} {k : Nat} (hk : k < list.length) :
    moveToFront list k = list[k] :: list.eraseIdx k := by
  rw [moveToFront, List.getElem?_eq_getElem hk]

/-- Moving to the front rearranges the list. -/
theorem moveToFront_perm {list : List Nat} {k : Nat} (hk : k < list.length) : (moveToFront list k).Perm list := by
  rw [moveToFront_of_lt hk]
  exact List.getElem_cons_eraseIdx_perm hk

theorem moveToFront_idxOf {list : List Nat} {x : Nat} (hx : x ∈ list) :
    moveToFront list (list.idxOf x) = x :: list.erase x := by
  have hlt : list.idxOf x < list.length := List.idxOf_lt_length_of_mem hx
  rw [moveToFront_of_lt hlt, List.getElem_idxOf hlt, List.erase_eq_eraseIdx_of_idxOf rfl]

/-! ### Recency order -/

/-- The distinct values of a list in the order of their first occurrences: for the elements so far, last one first, the
values from the most recently used on. -/
def recencyOrder : List Nat → List Nat
  | [] => []
  | a :: q => a :: (recencyOrder q).erase a

theorem nodup_recencyOrder (q : List Nat) : (recencyOrder q).Nodup := by
  induction q with
  | nil => exact List.nodup_nil
  | cons a q ih => exact List.nodup_cons.mpr ⟨ih.not_mem_erase, ih.erase a⟩

theorem mem_recencyOrder {q : List Nat} {y : Nat} : y ∈ recencyOrder q ↔ y ∈ q := by
  induction q with
  | nil => rfl
  | cons a q ih =>
    rw [recencyOrder, List.mem_cons, List.mem_cons, (nodup_recencyOrder q).mem_erase_iff, ih]
    tauto

theorem length_recencyOrder (q : List Nat) : (recencyOrder q).length = q.dedup.length :=
  ((List.perm_ext_iff_of_nodup (nodup_recencyOrder q) q.nodup_dedup).mpr fun y => by
    rw [mem_recencyOrder, List.mem_dedup]).length_eq

/-- Filtering out values other than `x` does not move the place where `x` is first met. -/
theorem takeWhile_ne_filter {p : Nat → Bool} {x : Nat} (hx : p x = true) (l : List Nat) :
    (l.filter p).takeWhile (fun y => decide (y ≠ x)) = (l.takeWhile (fun y => decide (y ≠ x))).filter p := by
  induction l with
  | nil => rfl
  | cons a l ih =>
    by_cases hax : a = x
    · subst hax
      simp [hx]
    · by_cases hpa : p a = true
      · simpa [hax, hpa] using ih
      · simpa [hax, hpa] using ih

theorem idxOf_eq_length_takeWhile (x : Nat) (l : List Nat) :
    l.idxOf x = (l.takeWhile (fun y => decide (y ≠ x))).length := by
  induction l with
  | nil => rfl
  | cons a l ih =>
    by_cases hax : a = x
    · subst hax; simp
    · rw [List.idxOf_cons_ne l hax, ih]
      simp [hax]

/-- The values more recent than `x` are the recency order of what came after `x`. -/
theorem takeWhile_recencyOrder (x : Nat) (q : List Nat) :
    (recencyOrder q).takeWhile (fun y => decide (y ≠ x)) = recencyOrder (q.takeWhile (fun y => decide (y ≠ x))) := by
  induction q with
  | nil => rfl
  | cons a q ih =>
    by_cases hax : a = x
    · subst hax; simp [recencyOrder]
    · have hkeep : (fun y => y != a) x = true := by simpa using Ne.symm hax
      have herase : ((recencyOrder q).erase a).takeWhile (fun y => decide (y ≠ x)) =
          (recencyOrder (q.takeWhile (fun y => decide (y ≠ x)))).erase a := by
        rw [(nodup_recencyOrder q).erase_eq_filter, takeWhile_ne_filter (p := fun y => y != a) hkeep, ih,
          (nodup_recencyOrder _).erase_eq_filter]
      have hpos : (fun y => decide (y ≠ x)) a = true := decide_eq_true hax
      rw [recencyOrder, List.takeWhile_cons_of_pos (p := fun y => decide (y ≠ x)) hpos, herase,
        List.takeWhile_cons_of_pos (p := fun y => decide (y ≠ x)) hpos, recencyOrder]

/-- The list after the elements `p` of a block (R241): the values used so far, most recent first, then the others. -/
def mtfList (list p : List Nat) : List Nat := recencyOrder p.reverse ++ list.filter (fun y => decide (y ∉ p))

theorem mtfList_nil (list : List Nat) : mtfList list [] = list := by simp [mtfList, recencyOrder]

theorem mem_mtfList {list p : List Nat} {x : Nat} (hx : x ∈ list) : x ∈ mtfList list p := by
  rw [mtfList, List.mem_append, mem_recencyOrder, List.mem_reverse, List.mem_filter]
  by_cases hp : x ∈ p
  · exact .inl hp
  · exact .inr ⟨hx, decide_eq_true hp⟩

/-- Encoding one more element moves it to the front. -/
theorem mtfList_concat {list : List Nat} (hlist : list.Nodup) (p : List Nat) {x : Nat} (hx : x ∈ list) :
    moveToFront (mtfList list p) ((mtfList list p).idxOf x) = mtfList list (p ++ [x]) := by
  rw [moveToFront_idxOf (mem_mtfList hx), mtfList, mtfList, List.reverse_append, List.reverse_singleton,
    List.singleton_append, recencyOrder, List.cons_append, List.erase_append]
  have hmem : x ∈ recencyOrder p.reverse ↔ x ∈ p := by rw [mem_recencyOrder, List.mem_reverse]
  split_ifs with hp
  · rw [hmem] at hp
    have hfilter : ∀ y, (y ∉ p ++ [x]) = (y ∉ p) := fun y => by
      rw [List.mem_append, List.mem_singleton, eq_iff_iff]
      exact not_congr ⟨fun h => h.elim id fun h => h ▸ hp, .inl⟩
    simp only [hfilter]
  · have hnot := hp
    rw [hmem] at hnot
    have hothers : (list.filter (fun y => decide (y ∉ p))).erase x = list.filter (fun y => decide (y ∉ p ++ [x])) := by
      rw [(hlist.filter _).erase_eq_filter, List.filter_filter]
      refine List.filter_congr fun y _ => ?_
      by_cases hyx : y = x <;> simp [hyx]
    rw [hothers, List.erase_of_not_mem hp]

/-- The code of an element is its place in the list after the elements before it (R243). -/
theorem getElem?_mtfEncodeLoop {list : List Nat} (hlist : list.Nodup) {xs : List Nat} (hxs : ∀ x ∈ xs, x ∈ list)
    (p : List Nat) (k : Nat) : (mtfEncodeLoop (mtfList list p) xs)[k]? =
      xs[k]?.map (fun x => (mtfList list (p ++ xs.take k)).idxOf x) := by
  induction xs generalizing p k with
  | nil => rfl
  | cons x xs ih =>
    obtain ⟨hx, hxs⟩ := List.forall_mem_cons.mp hxs
    rw [mtfEncodeLoop, mtfList_concat hlist p hx]
    cases k with
    | zero => simp
    | succ k =>
      rw [List.getElem?_cons_succ, List.getElem?_cons_succ, ih hxs, List.take_succ_cons, List.append_assoc,
        List.singleton_append]

/-! ### The codes are recency ranks -/

/-- The place of a value used before: the distinct values used since. -/
theorem idxOf_mtfList_of_mem {list p : List Nat} {x : Nat} (hx : x ∈ p) :
    (mtfList list p).idxOf x = ((p.reverse.takeWhile (fun y => decide (y ≠ x))).dedup).length := by
  have hmem : x ∈ recencyOrder p.reverse := mem_recencyOrder.mpr (List.mem_reverse.mpr hx)
  rw [mtfList, List.idxOf_append_of_mem hmem, idxOf_eq_length_takeWhile, takeWhile_recencyOrder, length_recencyOrder]

theorem takeWhile_alphabet {mn x n : Nat} (hmn : mn ≤ x) (hx : x < mn + n) :
    (List.range' mn n).takeWhile (fun y => decide (y ≠ x)) = List.range' mn (x - mn) := by
  induction n generalizing mn with
  | zero => omega
  | succ n ih =>
    rw [List.range'_succ]
    obtain rfl | hne := eq_or_ne mn x
    · simp
    · rw [List.takeWhile_cons_of_pos (p := fun y => decide (y ≠ x)) (decide_eq_true hne), ih (by omega) (by omega),
        show x - mn = (x - (mn + 1)) + 1 by omega, List.range'_succ]

theorem length_filter_add_length_filter_not (l : List Nat) (p : Nat → Bool) :
    (l.filter p).length + (l.filter (fun y => !p y)).length = l.length := by
  rw [← List.countP_eq_length_filter, ← List.countP_eq_length_filter]
  have h := List.length_eq_countP_add_countP p (l := l)
  simpa using h.symm

/-- The place of a new value: after the values used, and after the unused smaller values of the alphabet. -/
theorem idxOf_mtfList_of_not_mem {mn mx x : Nat} {p : List Nat} (hp : ∀ y ∈ p, mn ≤ y ∧ y ≤ mx) (hmn : mn ≤ x)
    (hmx : x ≤ mx) (hx : x ∉ p) : (mtfList (alphabet mn mx) p).idxOf x
      = (x - mn) + ((p.dedup).filter (fun y => decide (x < y))).length := by
  have hnot : x ∉ recencyOrder p.reverse := fun h => hx (List.mem_reverse.mp (mem_recencyOrder.mp h))
  have hused : (recencyOrder p.reverse).length = p.dedup.length := by
    rw [length_recencyOrder]
    exact ((List.perm_ext_iff_of_nodup p.reverse.nodup_dedup p.nodup_dedup).mpr fun y => by simp).length_eq
  have hbelow : ((List.range' mn (x - mn)).filter (fun y => decide (y ∈ p))).length
      = (p.dedup.filter (fun y => decide (y < x))).length := by
    refine ((List.perm_ext_iff_of_nodup ((List.nodup_range' (s := mn) (n := x - mn)).filter _) (p.nodup_dedup.filter _)).mpr fun y => ?_).length_eq
    simp only [List.mem_filter, List.mem_range'_1, List.mem_dedup, decide_eq_true_eq]
    exact ⟨fun ⟨_, hy⟩ => ⟨hy, by omega⟩, fun ⟨hy, _⟩ => ⟨⟨(hp y hy).1, by omega⟩, hy⟩⟩
  have habove : (p.dedup.filter (fun y => !decide (y < x))) = p.dedup.filter (fun y => decide (x < y)) := by
    refine List.filter_congr fun y hy => ?_
    have hyx : y ≠ x := fun h => hx (h ▸ List.mem_dedup.mp hy)
    rw [← decide_not, decide_eq_decide]
    omega
  have hsplit := length_filter_add_length_filter_not (List.range' mn (x - mn)) (fun y => decide (y ∈ p))
  have hsplit' := length_filter_add_length_filter_not p.dedup (fun y => decide (y < x))
  rw [habove] at hsplit'
  rw [List.length_range'] at hsplit
  rw [mtfList, List.idxOf_append_of_notMem hnot, idxOf_eq_length_takeWhile, takeWhile_ne_filter (decide_eq_true hx), alphabet,
    takeWhile_alphabet hmn (by omega), hused]
  simp only [decide_not]
  omega

/-- Settles O45: the place of an element in the list after the elements before it. -/
theorem mtfCodesAreRecencyRanks : Obligations.MtfCodesAreRecencyRanks := by
  unfold Obligations.MtfCodesAreRecencyRanks
  intro xs k x hx
  have hmem : x ∈ xs := List.mem_of_getElem? hx
  have hcode := getElem?_mtfEncodeLoop (nodup_alphabet _ _) (mem_alphabet_block (xs := xs)) [] k
  rw [mtfList_nil, hx, List.nil_append, Option.map_some] at hcode
  rw [hcode]
  split_ifs with hseen
  · rw [idxOf_mtfList_of_mem hseen]
  · have hbounds : ∀ y ∈ xs.take k, blockMin xs ≤ y ∧ y ≤ blockMax xs := fun y hy =>
      ⟨blockMin_le (List.mem_of_mem_take hy), le_blockMax (List.mem_of_mem_take hy)⟩
    rw [idxOf_mtfList_of_not_mem hbounds (blockMin_le hmem) (le_blockMax hmem) hseen]

/-! ### Encoding and decoding undo each other (R251) -/

@[simp] theorem length_mtfEncodeLoop (list xs : List Nat) : (mtfEncodeLoop list xs).length = xs.length := by
  induction xs generalizing list with
  | nil => rfl
  | cons x xs ih => rw [mtfEncodeLoop, List.length_cons, ih, List.length_cons]

theorem mtfEncodeLoop_lt {list xs : List Nat} (hxs : ∀ x ∈ xs, x ∈ list) : ∀ c ∈ mtfEncodeLoop list xs, c < list.length := by
  induction xs generalizing list with
  | nil => exact nofun
  | cons x xs ih =>
    obtain ⟨hx, hxs⟩ := List.forall_mem_cons.mp hxs
    have hlt := List.idxOf_lt_length_of_mem hx
    have hperm := moveToFront_perm hlt
    refine List.forall_mem_cons.mpr ⟨hlt, ?_⟩
    rw [← hperm.length_eq]
    exact ih fun y hy => hperm.mem_iff.mpr (hxs y hy)

theorem mtfDecodeLoop_mtfEncodeLoop {list xs : List Nat} (hxs : ∀ x ∈ xs, x ∈ list) (k : Nat) :
    mtfDecodeLoop list.length k list (mtfEncodeLoop list xs) = .ok xs := by
  induction xs generalizing list k with
  | nil => rfl
  | cons x xs ih =>
    obtain ⟨hx, hxs⟩ := List.forall_mem_cons.mp hxs
    have hlt := List.idxOf_lt_length_of_mem hx
    have hperm := moveToFront_perm hlt
    have hrest := ih (fun y hy => hperm.mem_iff.mpr (hxs y hy)) (k + 1)
    rw [hperm.length_eq] at hrest
    rw [mtfEncodeLoop, mtfDecodeLoop, if_neg (Nat.not_le.mpr hlt), hrest, List.getD_eq_getElem _ 0 hlt,
      List.getElem_idxOf hlt]

/-- Codes inside the alphabet decode, to elements of the list whose codes they are. -/
theorem mtfDecodeLoop_ok {list codes : List Nat} (hlist : list.Nodup) (hcodes : ∀ c ∈ codes, c < list.length) (k : Nat) :
    ∃ xs, mtfDecodeLoop list.length k list codes = .ok xs ∧ (∀ x ∈ xs, x ∈ list) ∧ mtfEncodeLoop list xs = codes := by
  induction codes generalizing list k with
  | nil => exact ⟨[], rfl, nofun, rfl⟩
  | cons c codes ih =>
    obtain ⟨hlt, hcodes⟩ := List.forall_mem_cons.mp hcodes
    have hperm := moveToFront_perm hlt
    obtain ⟨xs, hxs, hmem, hencode⟩ :=
      ih (hperm.nodup_iff.mpr hlist) (fun y hy => hperm.length_eq.symm ▸ hcodes y hy) (k + 1)
    rw [hperm.length_eq] at hxs
    refine ⟨list[c] :: xs, ?_, List.forall_mem_cons.mpr ⟨List.getElem_mem hlt, fun x hx => hperm.mem_iff.mp (hmem x hx)⟩, ?_⟩
    · rw [mtfDecodeLoop, if_neg (Nat.not_le.mpr hlt), hxs, List.getD_eq_getElem _ 0 hlt]
    · rw [mtfEncodeLoop, hlist.idxOf_getElem c hlt, hencode]

/-- The first code outside the alphabet is reported with its index (R245). -/
theorem mtfDecodeLoop_error {a j : Nat} {list codes : List Nat} {c : Nat} (hj : codes[j]? = some c) (hbad : a ≤ c)
    (hfirst : ∀ i < j, codes.getD i 0 < a) (k : Nat) : mtfDecodeLoop a k list codes = .error ⟨.eMtfRank, k + j⟩ := by
  induction codes generalizing list j k with
  | nil => cases hj
  | cons d codes ih =>
    cases j with
    | zero =>
      obtain rfl : d = c := by simpa using hj
      rw [mtfDecodeLoop, if_pos hbad, Nat.add_zero]
    | succ j =>
      have hd : d < a := hfirst 0 (Nat.succ_pos j)
      have hrest : mtfDecodeLoop a (k + 1) (moveToFront list d) codes = .error ⟨.eMtfRank, k + 1 + j⟩ :=
        ih hj (fun i hi => hfirst (i + 1) (Nat.succ_lt_succ hi)) (k + 1)
      rw [mtfDecodeLoop, if_neg (Nat.not_le.mpr hd), hrest, Nat.add_assoc, Nat.add_comm 1 j]

theorem lt_of_mtfDecodeLoop_ok {a k : Nat} {list codes xs : List Nat} (h : mtfDecodeLoop a k list codes = .ok xs) :
    ∀ c ∈ codes, c < a := by
  induction codes generalizing k list xs with
  | nil => exact nofun
  | cons c codes ih =>
    rw [mtfDecodeLoop] at h
    split_ifs at h with hbad
    split at h
    · cases h
    case h_2 ys hys => exact List.forall_mem_cons.mpr ⟨Nat.lt_of_not_le hbad, ih hys⟩

theorem mtfDecode_eq (codes : List Nat) (mn mx : Nat) :
    mtfDecode codes mn mx = mtfDecodeLoop (alphabet mn mx).length 0 (alphabet mn mx) codes := by
  rw [mtfDecode, length_alphabet]

theorem mtfDecode_ok {codes : List Nat} {mn mx : Nat} (hle : mn ≤ mx) (hcodes : ∀ c ∈ codes, c < mx - mn + 1) :
    ∃ xs, mtfDecode codes mn mx = .ok xs ∧ (∀ x ∈ xs, mn ≤ x ∧ x ≤ mx) ∧ mtfEncodeLoop (alphabet mn mx) xs = codes := by
  obtain ⟨xs, hxs, hmem, hencode⟩ := mtfDecodeLoop_ok (nodup_alphabet mn mx) (by rwa [length_alphabet]) 0
  exact ⟨xs, (mtfDecode_eq codes mn mx).trans hxs, fun x hx => (mem_alphabet hle).mp (hmem x hx), hencode⟩

theorem mtfRangeCheck_ok {amax ew mn mx : Nat} :
    mtfRangeCheck amax ew mn mx = .ok () ↔ mn ≤ mx ∧ mx < 2 ^ (8 * ew) ∧ mx - mn + 1 ≤ amax := by
  rw [mtfRangeCheck, bind_unit_ok, bind_unit_ok, check_ok, check_ok, check_ok, decide_eq_false_iff_not,
    decide_eq_false_iff_not, decide_eq_false_iff_not, Nat.not_lt, Nat.not_le, Nat.not_lt]

theorem mtfRangeCheck_error {amax ew mn mx : Nat} (h : mx < mn ∨ 2 ^ (8 * ew) ≤ mx ∨ amax < mx - mn + 1) :
    mtfRangeCheck amax ew mn mx = .error ⟨.eMtfAlphabet, mx⟩ := by
  have hcheck : mtfRangeCheck amax ew mn mx =
      if decide (mx < mn) then .error ⟨.eMtfAlphabet, mx⟩
      else if decide (2 ^ (8 * ew) ≤ mx) then .error ⟨.eMtfAlphabet, mx⟩
      else check (decide (amax < mx - mn + 1)) ⟨.eMtfAlphabet, mx⟩ := by
    rw [mtfRangeCheck, check_bind, check_bind]
  rw [hcheck]
  simp only [decide_eq_true_eq]
  split_ifs with h1 h2
  · rfl
  · rfl
  · exact check_error.mpr ⟨decide_eq_true ((h.resolve_left h1).resolve_left h2), rfl⟩

theorem mtfEncode_of_ne_nil {amax : Nat} {xs : List Nat} (h : xs ≠ []) : mtfEncode amax xs =
    if amax < blockMax xs - blockMin xs + 1 then .error ⟨.eMtfAlphabet, blockMax xs - blockMin xs + 1⟩
    else .ok (mtfEncodeLoop (alphabet (blockMin xs) (blockMax xs)) xs, blockMin xs, blockMax xs) := if_neg h

/-- Settles O46: the two loops keep the same list, and the bounds are those of the block. -/
theorem mtfRoundTrip : Obligations.MtfRoundTrip := by
  unfold Obligations.MtfRoundTrip
  refine ⟨fun amax xs codes mn mx hamax h => ?_, fun codes xs mn mx hle h => ?_⟩
  · by_cases hxs : xs = []
    · subst hxs
      cases h
      exact ⟨rfl, fun ew _ => mtfRangeCheck_ok.mpr ⟨Nat.le_refl 0, Nat.two_pow_pos _, hamax⟩⟩
    · rw [mtfEncode_of_ne_nil hxs] at h
      split_ifs at h with hfits
      cases h
      refine ⟨(mtfDecode_eq ..).trans (mtfDecodeLoop_mtfEncodeLoop mem_alphabet_block 0), fun ew hew => ?_⟩
      exact mtfRangeCheck_ok.mpr ⟨blockMin_le (blockMax_mem hxs), hew _ (blockMax_mem hxs), Nat.le_of_not_lt hfits⟩
  · have hcodes := lt_of_mtfDecodeLoop_ok h
    obtain ⟨ys, hys, hbounds, -⟩ := mtfDecode_ok hle hcodes
    obtain rfl := Except.ok.inj (hys.symm.trans h)
    exact hbounds

/-! ### The commands -/

@[simp] theorem State.length_readElems (s : State) (base ew n : Nat) : (s.readElems base ew n).length = n :=
  length_elements ..

/-- Settles O43: past the common checks the encoder decides, and its codes are as many as the elements. -/
theorem mtfeDelivers : Obligations.MtfeDelivers := by
  unfold Obligations.MtfeDelivers
  intro s xs hready hxs
  have hlen : xs.length = s.len.toNat := by rw [hxs, State.length_readElems]
  have hexec : exec .mtfe s = s.finishBulk (s.typedChecks s.typedBytes) (fun _ => do
      let c ← mtfEncode s.cfg.mtfAmax xs
      return { plainResult (serialize s.ew.toNat c.1) with vmin := some c.2.1, vmax := some c.2.2 }) := by
    rw [hxs]; rfl
  have hchecks : s.typedChecks s.typedBytes = .ok () := State.typedChecks_ok.mpr hready
  refine ⟨fun hnil => ?_, fun mn hmn mx hmx hbounds => ?_⟩
  · subst hnil
    obtain ⟨t, ht, -, hdelivered⟩ := State.delivers hexec hchecks rfl rfl (Nat.zero_le _)
    exact ⟨t, ht, hdelivered⟩
  · have hencode := mtfEncode_of_ne_nil (amax := s.cfg.mtfAmax) (List.ne_nil_of_mem hmn)
    rw [blockMin_eq hmn fun x hx => (hbounds x hx).1, blockMax_eq hmx fun x hx => (hbounds x hx).2] at hencode
    have hsize : (serialize s.ew.toNat (mtfEncodeLoop (alphabet mn mx) xs)).length = s.len.toNat * s.ew.toNat := by
      rw [length_serialize, length_mtfEncodeLoop, hlen]
    refine ⟨fun hbad => ?_, fun hgood hcap => ?_, fun hgood hcap => ?_⟩
    · rw [if_pos hbad] at hencode
      exact State.raises hexec hchecks (bind_of_error hencode _)
    · rw [if_neg (Nat.not_lt.mpr hgood)] at hencode
      exact State.raisesCap hexec hchecks (pure_bind_ok hencode _) hsize hcap
    · rw [if_neg (Nat.not_lt.mpr hgood)] at hencode
      exact State.delivers hexec hchecks (pure_bind_ok hencode _) hsize hcap

/-- Settles O44: past the common checks the range check decides, then the first code outside the alphabet. -/
theorem mtfdDelivers : Obligations.MtfdDelivers := by
  unfold Obligations.MtfdDelivers
  intro s codes hready hcodes
  have hlen : codes.length = s.len.toNat := by rw [hcodes, State.length_readElems]
  have hexec : exec .mtfd s = s.finishBulk (s.typedChecks s.typedBytes) (fun _ => do
      mtfRangeCheck s.cfg.mtfAmax s.ew.toNat s.vmin.toNat s.vmax.toNat
      let xs ← mtfDecode codes s.vmin.toNat s.vmax.toNat
      return plainResult (serialize s.ew.toNat xs)) := by
    rw [hcodes]; rfl
  have hchecks : s.typedChecks s.typedBytes = .ok () := State.typedChecks_ok.mpr hready
  refine ⟨fun hbad => State.raises hexec hchecks (bind_of_error (mtfRangeCheck_error hbad) _), fun hle hfits hamax => ?_⟩
  have hrange := mtfRangeCheck_ok.mpr ⟨hle, hfits, hamax⟩
  have hsize : ∀ {xs}, mtfEncodeLoop (alphabet s.vmin.toNat s.vmax.toNat) xs = codes →
      (serialize s.ew.toNat xs).length = s.len.toNat * s.ew.toNat := fun h => by
    rw [length_serialize, ← hlen, ← h, length_mtfEncodeLoop]
  refine ⟨fun k c hk hbad hfirst => ?_, fun hgood hcap => ?_, fun hgood hcap => ?_⟩
  · have hdecode : mtfDecode codes s.vmin.toNat s.vmax.toNat = .error ⟨.eMtfRank, k⟩ := by
      rw [mtfDecode, mtfDecodeLoop_error hk hbad hfirst, Nat.zero_add]
    exact State.raises hexec hchecks ((pure_bind_ok hrange _).trans (bind_of_error hdecode _))
  · obtain ⟨xs, hdecode, hbounds, hencode⟩ := mtfDecode_ok hle hgood
    obtain ⟨t, ht, holen, hdelivered⟩ := State.delivers hexec hchecks
      ((pure_bind_ok hrange _).trans (pure_bind_ok hdecode _)) (hsize hencode) hcap
    exact ⟨t, xs, ht, hbounds, hencode, holen, hdelivered⟩
  · obtain ⟨xs, hdecode, -, hencode⟩ := mtfDecode_ok hle hgood
    exact State.raisesCap hexec hchecks ((pure_bind_ok hrange _).trans (pure_bind_ok hdecode _)) (hsize hencode) hcap

end Sys2Proof.Machine


/-! PROOFS. The run-length codec (48_lzw_rle.md R325 to R333): both directions through the pairs that a byte sequence
holds. -/

namespace Sys2Proof.Machine

/-! ### Runs of memory -/

theorem State.take_drop_readBytes (s : State) (a : Nat) {k m n : Nat} (h : k + m ≤ n) :
    ((s.readBytes a n).drop k).take m = s.readBytes (a + k) m := by
  obtain ⟨r, rfl⟩ := Nat.exists_eq_add_of_le h
  rw [Nat.add_assoc, State.readBytes_add, List.drop_left' (s.length_readBytes a k), State.readBytes_add,
    List.take_left' (s.length_readBytes _ m)]

/-! ### The pairs of a byte sequence -/

/-- The bytes of a sequence of (count, value) pairs. -/
def pairBytes (ew : Nat) (ps : List (Nat × Nat)) : List Byte := ps.flatMap (fun p => rlePair ew p.1 p.2)

/-- What a sequence of pairs stands for. -/
def replayPairs (ps : List (Nat × Nat)) : List Nat := ps.flatMap (fun p => List.replicate p.1 p.2)

/-- The pairs of one run (R327). -/
def runPairs (p : Nat × Nat) : List (Nat × Nat) := (rleCounts p.1).map (fun count => (count, p.2))

/-- The pairs the encoder writes. -/
def encodedPairs (xs : List Nat) : List (Nat × Nat) := (rleRuns xs).flatMap runPairs

theorem rleEncode_eq (ew : Nat) (xs : List Nat) : rleEncode ew xs = pairBytes ew (encodedPairs xs) := by
  simp only [rleEncode, pairBytes, encodedPairs, runPairs, List.flatMap_assoc, List.flatMap_map]

@[simp] theorem length_rlePair (ew count v : Nat) : (rlePair ew count v).length = 1 + ew := by
  rw [rlePair, List.length_cons, length_leBytes, Nat.add_comm]

theorem length_pairBytes (ew : Nat) (ps : List (Nat × Nat)) : (pairBytes ew ps).length = ps.length * (1 + ew) := by
  induction ps with
  | nil => simp [pairBytes]
  | cons p ps ih =>
    rw [pairBytes, List.flatMap_cons, List.length_append, length_rlePair, ← pairBytes, ih, List.length_cons,
      Nat.succ_mul, Nat.add_comm]

theorem rlePairs_zero (ew : Nat) (bytes : List Byte) : rlePairs ew 0 bytes = [] := rfl

theorem rlePairs_succ_cons (ew k : Nat) (count : Byte) (bytes : List Byte) : rlePairs ew (k + 1) (count :: bytes) =
    (count.toNat, leValue (bytes.take ew)) :: rlePairs ew k (bytes.drop ew) := by
  have hnext : ∀ p, (p + 1) * (1 + ew) = ew + p * (1 + ew) + 1 := fun p => by rw [Nat.succ_mul]; omega
  simp only [rlePairs, List.range_succ_eq_map, List.map_cons, List.map_map, Nat.zero_mul,
    List.getD_cons_zero, List.drop_succ_cons, List.drop_zero, Function.comp_def, Nat.succ_eq_add_one, hnext,
    List.getD_cons_succ, List.drop_drop]
  simp only [List.getD_eq_getElem?_getD, List.getElem?_drop, Nat.add_assoc]

/-- Replaying bytes is replaying their pairs (R329). -/
theorem rleReplay_eq {ew k : Nat} {bytes : List Byte} (h : bytes.length = k * (1 + ew)) :
    rleReplay ew k bytes = replayPairs (rlePairs ew k bytes) := by
  induction k generalizing bytes with
  | zero => simp [rleReplay, replayPairs, rlePairs]
  | succ k ih =>
    cases bytes with
    | nil => rw [Nat.succ_mul, List.length_nil] at h; omega
    | cons count bytes =>
      rw [List.length_cons, Nat.succ_mul] at h
      have hrest : (bytes.drop ew).length = k * (1 + ew) := by rw [List.length_drop]; omega
      rw [rleReplay, ih hrest, rlePairs_succ_cons, replayPairs, replayPairs, List.flatMap_cons]

/-- Pairs whose counts and values fit are read back from their bytes. -/
theorem rlePairs_pairBytes {ew : Nat} {ps : List (Nat × Nat)} (h : ∀ p ∈ ps, p.1 < 256 ∧ p.2 < 256 ^ ew) :
    rlePairs ew ps.length (pairBytes ew ps) = ps := by
  induction ps with
  | nil => rfl
  | cons p ps ih =>
    obtain ⟨⟨hcount, hvalue⟩, hps⟩ := List.forall_mem_cons.mp h
    rw [pairBytes, List.flatMap_cons, rlePair, List.cons_append, List.length_cons, rlePairs_succ_cons,
      List.take_left' (length_leBytes ew p.2), List.drop_left' (length_leBytes ew p.2), leValue_leBytes,
      Nat.mod_eq_of_lt hvalue, BitVec.toNat_ofNat, Nat.mod_eq_of_lt hcount, ← pairBytes, ih hps]

theorem rleDecode_pairBytes {ew : Nat} {ps : List (Nat × Nat)} (h : ∀ p ∈ ps, p.1 < 256 ∧ p.2 < 256 ^ ew) :
    rleDecode ew (pairBytes ew ps) = .ok (replayPairs ps) := by
  have hlen := length_pairBytes ew ps
  rw [rleDecode, hlen, Nat.mul_mod_left, if_neg (by decide), Nat.mul_div_cancel _ (by omega), rleReplay_eq hlen,
    rlePairs_pairBytes h]

/-! ### The encoder's pairs (R327) -/

theorem rleRuns_cons (x : Nat) (xs : List Nat) :
    (∃ run rest, rleRuns xs = (run, x) :: rest ∧ rleRuns (x :: xs) = (run + 1, x) :: rest)
    ∨ ((∀ p ∈ (rleRuns xs).head?, x ≠ p.2) ∧ rleRuns (x :: xs) = (1, x) :: rleRuns xs) := by
  rw [rleRuns]
  split
  case h_1 run v rest hruns =>
    split_ifs with hv
    · exact .inl ⟨run, rest, hv ▸ hruns, by rw [hv]⟩
    · refine .inr ⟨fun p hp => ?_, by rw [hruns]⟩
      rw [hruns] at hp
      obtain rfl : (run, v) = p := by simpa using hp
      exact Ne.symm hv
  case h_2 hruns =>
    rw [hruns]
    exact .inr ⟨nofun, rfl⟩

/-- Runs are not empty, neighbours have different values, and together they are the elements. -/
theorem rleRuns_spec (xs : List Nat) : (∀ p ∈ rleRuns xs, 1 ≤ p.1) ∧ (rleRuns xs).IsChain (fun p q => p.2 ≠ q.2)
    ∧ replayPairs (rleRuns xs) = xs := by
  induction xs with
  | nil => exact ⟨nofun, .nil, rfl⟩
  | cons x xs ih =>
    obtain ⟨hpos, hchain, hreplay⟩ := ih
    obtain ⟨run, rest, hruns, hcons⟩ | ⟨hhead, hcons⟩ := rleRuns_cons x xs
    · rw [hruns] at hpos hchain hreplay
      rw [List.isChain_cons] at hchain
      rw [hcons, List.isChain_cons]
      refine ⟨List.forall_mem_cons.mpr ⟨Nat.le_add_left 1 run, (List.forall_mem_cons.mp hpos).2⟩, hchain, ?_⟩
      rw [replayPairs, List.flatMap_cons] at hreplay ⊢
      rw [List.replicate_succ, List.cons_append, hreplay]
    · rw [hcons, List.isChain_cons]
      refine ⟨List.forall_mem_cons.mpr ⟨Nat.le_refl 1, hpos⟩, ⟨hhead, hchain⟩, ?_⟩
      rw [replayPairs, List.flatMap_cons, ← replayPairs, hreplay, List.replicate_one, List.singleton_append]

theorem rleCounts_bounds {run : Nat} (h : 1 ≤ run) : ∀ c ∈ rleCounts run, 1 ≤ c ∧ c ≤ 255 := by
  intro c hc
  rw [rleCounts, List.mem_append, List.mem_singleton] at hc
  obtain hc | rfl := hc
  · rw [List.eq_of_mem_replicate hc]; decide
  · omega

theorem replayPairs_replicate (q count v : Nat) :
    replayPairs (List.replicate q (count, v)) = List.replicate (q * count) v := by
  induction q with
  | zero => simp [replayPairs]
  | succ q ih =>
    rw [List.replicate_succ, replayPairs, List.flatMap_cons, ← replayPairs, ih, List.replicate_append_replicate,
      Nat.succ_mul, Nat.add_comm]

theorem runPairs_eq (run v : Nat) : runPairs (run, v) =
    List.replicate ((run - 1) / 255) (255, v) ++ [(run - 255 * ((run - 1) / 255), v)] := by
  rw [runPairs, rleCounts, List.map_append, List.map_replicate, List.map_singleton]

theorem replayPairs_runPairs (p : Nat × Nat) : replayPairs (runPairs p) = List.replicate p.1 p.2 := by
  rw [runPairs_eq, replayPairs, List.flatMap_append, ← replayPairs, replayPairs_replicate, List.flatMap_singleton,
    List.replicate_append_replicate]
  congr 1
  omega

/-- The pairs of one run are in the encoder's form. -/
theorem isChain_runPairs (p : Nat × Nat) : (runPairs p).IsChain (fun p q => p.2 = q.2 → p.1 = 255) := by
  rw [runPairs_eq, List.isChain_append]
  refine ⟨List.isChain_replicate_of_rel _ fun _ => rfl, List.isChain_singleton _, fun a ha _ _ _ => ?_⟩
  rw [List.eq_of_mem_replicate (List.mem_of_mem_getLast? ha)]

theorem snd_of_mem_runPairs {p a : Nat × Nat} (ha : a ∈ runPairs p) : a.2 = p.2 := by
  obtain ⟨c, -, rfl⟩ := List.mem_map.mp ha
  rfl

theorem runPairs_ne_nil (p : Nat × Nat) : runPairs p ≠ [] := by
  rw [runPairs_eq]
  exact List.append_ne_nil_of_right_ne_nil _ (List.cons_ne_nil _ _)

theorem isChain_flatMap_runPairs {rs : List (Nat × Nat)} (h : rs.IsChain (fun p q => p.2 ≠ q.2)) :
    (rs.flatMap runPairs).IsChain (fun p q => p.2 = q.2 → p.1 = 255) := by
  induction rs with
  | nil => exact .nil
  | cons p rs ih =>
    obtain ⟨hhead, hrest⟩ := List.isChain_cons.mp h
    rw [List.flatMap_cons, List.isChain_append]
    refine ⟨isChain_runPairs p, ih hrest, fun a ha b hb hab => ?_⟩
    cases rs with
    | nil => cases hb
    | cons q rs =>
      rw [List.flatMap_cons, List.head?_append_of_ne_nil _ (runPairs_ne_nil q)] at hb
      rw [snd_of_mem_runPairs (List.mem_of_mem_getLast? ha), snd_of_mem_runPairs (List.mem_of_mem_head? hb)] at hab
      exact absurd hab (hhead q rfl)

theorem encodedPairs_bounds (xs : List Nat) : ∀ p ∈ encodedPairs xs, 1 ≤ p.1 ∧ p.1 ≤ 255 := by
  intro p hp
  obtain ⟨r, hr, hp⟩ := List.mem_flatMap.mp hp
  obtain ⟨c, hc, rfl⟩ := List.mem_map.mp hp
  exact rleCounts_bounds ((rleRuns_spec xs).1 r hr) c hc

theorem rleForm_encodedPairs (xs : List Nat) : RleForm (encodedPairs xs) :=
  ⟨encodedPairs_bounds xs, isChain_flatMap_runPairs (rleRuns_spec xs).2.1⟩

theorem replayPairs_encodedPairs (xs : List Nat) : replayPairs (encodedPairs xs) = xs := by
  obtain ⟨-, -, hruns⟩ := rleRuns_spec xs
  rw [encodedPairs, replayPairs, List.flatMap_assoc]
  exact (List.flatMap_congr fun p _ => replayPairs_runPairs p).trans hruns

/-- Every pair has the value of one of the elements it stands for. -/
theorem encodedPairs_fit {ew : Nat} {xs : List Nat} (h : ∀ x ∈ xs, x < 256 ^ ew) :
    ∀ p ∈ encodedPairs xs, p.1 < 256 ∧ p.2 < 256 ^ ew := by
  intro p hp
  obtain ⟨hpos, hle⟩ := encodedPairs_bounds xs p hp
  refine ⟨Nat.lt_succ_of_le hle, h p.2 ?_⟩
  rw [← replayPairs_encodedPairs xs]
  exact List.mem_flatMap.mpr ⟨p, hp, List.mem_replicate.mpr ⟨by omega, rfl⟩⟩

theorem rleDecode_rleEncode {ew : Nat} {xs : List Nat} (h : ∀ x ∈ xs, x < 256 ^ ew) :
    rleDecode ew (rleEncode ew xs) = .ok xs := by
  rw [rleEncode_eq, rleDecode_pairBytes (encodedPairs_fit h), replayPairs_encodedPairs]

theorem rlePairs_value_lt {ew k : Nat} {bytes : List Byte} : ∀ p ∈ rlePairs ew k bytes, p.2 < 256 ^ ew := by
  intro p hp
  obtain ⟨j, -, rfl⟩ := List.mem_map.mp hp
  exact (leValue_lt _).trans_le (Nat.pow_le_pow_right (by decide) (List.length_take_le _ _))

/-- Decoding gives what the pairs stand for. -/
theorem rleDecode_ok {ew : Nat} {bytes : List Byte} (h : bytes.length % (1 + ew) = 0) :
    rleDecode ew bytes = .ok (replayPairs (rlePairs ew (bytes.length / (1 + ew)) bytes)) := by
  rw [rleDecode, if_neg (not_not_intro h), rleReplay_eq (Nat.div_mul_cancel (Nat.dvd_of_mod_eq_zero h)).symm]

theorem rleDecode_error {ew : Nat} {bytes : List Byte} (h : bytes.length % (1 + ew) ≠ 0) :
    rleDecode ew bytes = .error ⟨.eRleTrunc, bytes.length⟩ := if_pos h

theorem rleDecode_lt {ew : Nat} {bytes : List Byte} {xs : List Nat} (h : rleDecode ew bytes = .ok xs) :
    ∀ x ∈ xs, x < 256 ^ ew := by
  by_cases hmod : bytes.length % (1 + ew) = 0
  · obtain rfl := Except.ok.inj ((rleDecode_ok hmod).symm.trans h)
    intro x hx
    obtain ⟨p, hp, hx⟩ := List.mem_flatMap.mp hx
    rw [List.eq_of_mem_replicate hx]
    exact rlePairs_value_lt p hp
  · cases (rleDecode_error hmod).symm.trans h

/-- Settles O54: the encoder's bytes hold the encoder's pairs, which stand for the elements. -/
theorem rleRoundTrip : Obligations.RleRoundTrip := by
  unfold Obligations.RleRoundTrip
  refine fun ew _ => ⟨fun xs hxs => rleDecode_rleEncode hxs, fun bytes xs hdecode hencode => ?_⟩
  have hlen := length_pairBytes ew (encodedPairs xs)
  rw [← hencode, rleEncode_eq, hlen, Nat.mul_div_cancel _ (by omega),
    rlePairs_pairBytes (encodedPairs_fit (rleDecode_lt hdecode))]
  exact rleForm_encodedPairs xs

/-! ### The commands -/

theorem replayPairs_inBytes {s : State} (h : s.len.toNat % (1 + s.ew.toNat) = 0) :
    replayPairs (rlePairs s.ew.toNat (s.len.toNat / (1 + s.ew.toNat)) s.inBytes) =
      (List.range (s.len.toNat / (1 + s.ew.toNat))).flatMap (fun p =>
        List.replicate (s.readByte (s.pa.toNat + p * (1 + s.ew.toNat))).toNat
          (leValue (s.readBytes (s.pa.toNat + p * (1 + s.ew.toNat) + 1) s.ew.toNat))) := by
  rw [replayPairs, rlePairs, List.flatMap_map]
  refine List.flatMap_congr fun p hp => ?_
  have hend : (p + 1) * (1 + s.ew.toNat) ≤ s.len.toNat := by
    rw [← Nat.div_mul_cancel (Nat.dvd_of_mod_eq_zero h)]
    exact Nat.mul_le_mul_right _ (List.mem_range.mp hp)
  rw [Nat.succ_mul] at hend
  rw [State.inBytes, s.getD_readBytes _ (by omega), s.take_drop_readBytes _ (by omega), Nat.add_assoc]

/-- Settles O53. -/
theorem rleCommands : Obligations.RleCommands := by
  unfold Obligations.RleCommands
  refine ⟨fun s out hready hout => ?_, fun s xs hready => ?_⟩
  · subst hout
    have hexec : exec .rlee s = s.finishBulk (s.typedChecks s.typedBytes)
        (fun _ => .ok (plainResult (rleEncode s.ew.toNat s.inElems))) := rfl
    have hchecks : s.typedChecks s.typedBytes = .ok () := State.typedChecks_ok.mpr hready
    refine ⟨fun hcap => ?_, fun hcap => State.raisesCap hexec hchecks rfl rfl hcap⟩
    obtain ⟨t, ht, -, hdelivered⟩ := State.delivers hexec hchecks rfl rfl hcap
    exact ⟨t, ht, hdelivered⟩
  · have hexec : exec .rled s = s.finishBulk (s.typedChecks s.len.toNat) (fun _ => do
        let xs ← rleDecode s.ew.toNat s.inBytes
        return plainResult (serialize s.ew.toNat xs)) := rfl
    have hchecks : s.typedChecks s.len.toNat = .ok () := State.typedChecks_ok.mpr hready
    have hlen : s.inBytes.length = s.len.toNat := s.length_readBytes _ _
    rw [← hlen]
    refine ⟨fun hmod => State.raises hexec hchecks (bind_of_error (rleDecode_error hmod) _), fun hmod hxs => ?_⟩
    have hdecode := rleDecode_ok hmod
    rw [hlen] at hdecode hmod hxs
    rw [replayPairs_inBytes hmod, ← hxs] at hdecode
    exact ⟨fun hcap => State.delivers hexec hchecks (pure_bind_ok hdecode _) (length_serialize _ _) hcap,
      fun hcap => State.raisesCap hexec hchecks (pure_bind_ok hdecode _) (length_serialize _ _) hcap⟩

end Sys2Proof.Machine


/-! PROOFS. The bit stream (46_bitstream.md R261 to R267): runs of bits and their values, the bytes of a stream, and the
reader over them. -/

namespace Sys2Proof.Machine

/-! ### Runs of bits -/

@[simp] theorem length_putBits (v w : Nat) : (putBits v w).length = w := by
  induction w with
  | zero => rfl
  | succ w ih => rw [putBits, List.length_cons, ih]

theorem getElem?_putBits {v w k : Nat} (h : k < w) : (putBits v w)[k]? = some (v.testBit (w - 1 - k)) := by
  induction w generalizing k with
  | zero => omega
  | succ w ih =>
    cases k with
    | zero => rfl
    | succ k => rw [putBits, List.getElem?_cons_succ, ih (by omega), show w + 1 - 1 - (k + 1) = w - 1 - k by omega]

/-- Every run of bits is the run of a value. -/
theorem exists_eq_putBits (bits : List Bool) : ∃ v < 2 ^ bits.length, bits = putBits v bits.length := by
  induction bits with
  | nil => exact ⟨0, by decide, rfl⟩
  | cons b bits ih =>
    obtain ⟨v, hv, hbits⟩ := ih
    have htop : (2 ^ bits.length * b.toNat + v).testBit bits.length = b := by
      rw [Nat.testBit_two_pow_mul_add _ hv, if_neg (Nat.lt_irrefl _), Nat.sub_self]
      cases b <;> rfl
    have hlow : putBits (2 ^ bits.length * b.toNat + v) bits.length = putBits v bits.length := by
      refine List.ext_getElem? fun k => ?_
      by_cases hk : k < bits.length
      · rw [getElem?_putBits hk, getElem?_putBits hk, Nat.testBit_two_pow_mul_add _ hv, if_pos (by omega)]
      · rw [List.getElem?_eq_none (by simpa using hk), List.getElem?_eq_none (by simpa using hk)]
    refine ⟨2 ^ bits.length * b.toNat + v, ?_, ?_⟩
    · rw [List.length_cons, Nat.pow_succ]
      have hb : b.toNat ≤ 1 := b.toNat_le
      have := Nat.mul_le_mul_left (2 ^ bits.length) hb
      omega
    · rw [List.length_cons, putBits, htop, hlow, ← hbits]

theorem takeBits_putBits (v w acc : Nat) (rest : List Bool) :
    takeBits w acc (putBits v w ++ rest) = some (acc * 2 ^ w + v % 2 ^ w, rest) := by
  induction w generalizing acc with
  | zero => simp [takeBits, putBits, Nat.mod_one]
  | succ w ih =>
    rw [putBits, List.cons_append, takeBits, ih, Nat.mod_pow_succ, Nat.toNat_testBit, Nat.pow_succ]
    congr 2
    ring

theorem takeBits_eq_none {w : Nat} {bits : List Bool} (h : bits.length < w) (acc : Nat) : takeBits w acc bits = none := by
  induction w generalizing bits acc with
  | zero => omega
  | succ w ih =>
    cases bits with
    | nil => rfl
    | cons b bits => exact ih (Nat.lt_of_succ_lt_succ h) _

/-- A run that was put is the run that is got (R266). -/
theorem getBits_putBits {v w : Nat} (hv : v < 2 ^ w) (pos : Nat) (rest : List Bool) :
    getBits w { bits := putBits v w ++ rest, pos := pos } = .ok (v, { bits := rest, pos := pos + w }) := by
  rw [getBits, takeBits_putBits, Nat.zero_mul, Nat.zero_add, Nat.mod_eq_of_lt hv]

theorem getBits_eq_error {w : Nat} {rd : BitReader} (h : rd.bits.length < w) :
    getBits w rd = .error ⟨.eStreamTrunc, rd.pos⟩ := by
  rw [getBits, takeBits_eq_none h]

/-- Different values have different runs. -/
theorem putBits_inj {v v' w : Nat} (hv : v < 2 ^ w) (hv' : v' < 2 ^ w) (h : putBits v w = putBits v' w) : v = v' := by
  have hget := getBits_putBits hv 0 []
  rw [h, getBits_putBits hv' 0 []] at hget
  exact (Prod.ext_iff.mp (Except.ok.inj hget)).1.symm

/-- The run of the first bits and one more. -/
theorem putBits_concat (c l : Nat) (b : Bool) : putBits (2 * c + b.toNat) (l + 1) = putBits c l ++ [b] := by
  refine List.ext_getElem? fun k => ?_
  have hb : b.toNat ≤ 1 := b.toNat_le
  obtain hk | rfl | hk := Nat.lt_trichotomy k l
  · rw [getElem?_putBits (by omega), List.getElem?_append_left (by simpa using hk), getElem?_putBits hk,
      show l + 1 - 1 - k = (l - 1 - k) + 1 by omega, Nat.testBit_succ, show (2 * c + b.toNat) / 2 = c by omega]
  · rw [getElem?_putBits (by omega), List.getElem?_append_right (by simp), length_putBits, Nat.sub_self,
      Nat.add_sub_cancel, Nat.sub_self, Nat.testBit_zero]
    cases b <;> simp
  · rw [List.getElem?_eq_none (by simp; omega), List.getElem?_eq_none (by simp; omega)]

/-! ### The bytes of a stream (R262 to R264) -/

theorem bitsOfByte_byteOfBits (b7 b6 b5 b4 b3 b2 b1 b0 : Bool) :
    bitsOfByte (byteOfBits b7 b6 b5 b4 b3 b2 b1 b0) = [b7, b6, b5, b4, b3, b2, b1, b0] := by
  revert b7 b6 b5 b4 b3 b2 b1 b0
  decide

theorem flatMap_packBits {bits : List Bool} (h : 8 ∣ bits.length) : (packBits bits).flatMap bitsOfByte = bits := by
  fun_induction packBits bits with
  | case1 b7 b6 b5 b4 b3 b2 b1 b0 bits ih =>
    rw [List.flatMap_cons, bitsOfByte_byteOfBits, ih]
    · rfl
    · simp only [List.length_cons] at h
      omega
  | case2 bits hshort =>
    match bits, h, hshort with
    | [], _, _ => rfl
    | [_], h, _ | [_, _], h, _ | [_, _, _], h, _ | [_, _, _, _], h, _ | [_, _, _, _, _], h, _
    | [_, _, _, _, _, _], h, _ | [_, _, _, _, _, _, _], h, _ => simp at h
    | _ :: _ :: _ :: _ :: _ :: _ :: _ :: _ :: _, _, hshort => exact absurd rfl (hshort _ _ _ _ _ _ _ _ _)

@[simp] theorem length_flatMap_bitsOfByte (bytes : List Byte) : (bytes.flatMap bitsOfByte).length = 8 * bytes.length := by
  induction bytes with
  | nil => rfl
  | cons b bytes ih =>
    rw [List.flatMap_cons, List.length_append, ih, bitsOfByte, length_putBits, List.length_cons]
    omega

theorem getElem?_flatMap_bitsOfByte {bytes : List Byte} {k : Nat} (h : k < 8 * bytes.length) :
    (bytes.flatMap bitsOfByte)[k]? = some ((bytes.getD (k / 8) 0).getLsbD (7 - k % 8)) := by
  induction bytes generalizing k with
  | nil => simp at h
  | cons b bytes ih =>
    have hlen : (bitsOfByte b).length = 8 := length_putBits _ _
    rw [List.flatMap_cons]
    by_cases hk : k < 8
    · rw [List.getElem?_append_left (hlen.symm ▸ hk), bitsOfByte, getElem?_putBits hk, Nat.div_eq_of_lt hk,
        Nat.mod_eq_of_lt hk, List.getD_cons_zero, BitVec.testBit_toNat]
    · rw [List.length_cons] at h
      rw [List.getElem?_append_right (hlen.symm ▸ Nat.le_of_not_lt hk), hlen, ih (by omega),
        show k / 8 = (k - 8) / 8 + 1 by omega, List.getD_cons_succ, show k % 8 = (k - 8) % 8 by omega]

/-- The reader's bits are those of the stream. -/
theorem streamBits_eq (bytes : List Byte) (pad : Nat) :
    streamBits bytes pad = (bytes.flatMap bitsOfByte).take (8 * bytes.length - pad) := by
  refine List.ext_getElem? fun k => ?_
  by_cases hk : k < 8 * bytes.length - pad
  · rw [List.getElem?_take_of_lt hk, getElem?_flatMap_bitsOfByte (by omega), streamBits, List.getElem?_map,
      List.getElem?_range hk, Option.map_some]
  · rw [List.getElem?_eq_none, List.getElem?_eq_none]
    · simp; omega
    · simp [streamBits]; omega

theorem newReader_ok {bytes : List Byte} {pad : Nat} (h : pad ≤ 7) (hle : pad ≤ 8 * bytes.length) :
    newReader bytes pad = .ok { bits := streamBits bytes pad, pos := 0 } := by
  rw [newReader, if_neg (by omega), streamBits_eq]

theorem newReader_error {bytes : List Byte} {pad : Nat} (h : 7 < pad ∨ 8 * bytes.length < pad) :
    newReader bytes pad = .error ⟨.ePadb, pad⟩ := if_pos h

theorem padCount_le (t : Nat) : padCount t ≤ 7 := Nat.le_of_lt_succ (Nat.mod_lt _ (by decide))

theorem flatMap_finishBits (bits : List Bool) :
    (finishBits bits).1.flatMap bitsOfByte = bits ++ List.replicate (padCount bits.length) false := by
  refine flatMap_packBits ?_
  rw [List.length_append, List.length_replicate, padCount]
  omega

/-- The padding fills the last byte (R263). -/
theorem length_finishBits (bits : List Bool) :
    8 * (finishBits bits).1.length = bits.length + (finishBits bits).2 := by
  rw [← length_flatMap_bitsOfByte, flatMap_finishBits, List.length_append, List.length_replicate, finishBits]

/-- The bits of a finished stream are those that were put. -/
theorem streamBits_finishBits (bits : List Bool) : streamBits (finishBits bits).1 (finishBits bits).2 = bits := by
  rw [streamBits_eq, length_finishBits, flatMap_finishBits, Nat.add_sub_cancel, List.take_left]

theorem newReader_finishBits (bits : List Bool) :
    newReader (finishBits bits).1 (finishBits bits).2 = .ok { bits := bits, pos := 0 } := by
  have hlen := length_finishBits bits
  have hpad : (finishBits bits).2 ≤ 7 := padCount_le bits.length
  rw [newReader_ok hpad (by omega), streamBits_finishBits]

/-- Settles O47. -/
theorem bitStreamRoundTrip : Obligations.BitStreamRoundTrip := by
  unfold Obligations.BitStreamRoundTrip
  refine ⟨fun bits => ⟨Nat.lt_succ_of_le (padCount_le _), length_finishBits bits, fun k hk => ?_,
    newReader_finishBits bits⟩, fun v w pos rest hv => getBits_putBits hv pos rest, fun w rd h => getBits_eq_error h⟩
  have hlen := length_finishBits bits
  have hbit := getElem?_flatMap_bitsOfByte (bytes := (finishBits bits).1) (k := k) (by omega)
  rw [flatMap_finishBits, List.getElem?_append_left hk] at hbit
  rw [List.getD_eq_getElem?_getD (l := bits), hbit, Option.getD_some]

end Sys2Proof.Machine


/-! PROOFS. The LZW codec (48_lzw_rle.md R311 to R322). Encoder and decoder both keep to the strings that a sequence of codes
stands for: the encoder cuts its input into such strings, and the decoder gives back their concatenation. -/

namespace Sys2Proof.Machine

/-! ### Commands on bytes -/

section
variable {s : State} {o : Host.Outcome State Fault Refusal} {checks : Except Raised Unit}

/-- A command that decodes bytes raises what decoding raises, and delivers what it decodes to or raises `E_CAP`. -/
theorem State.decodes {dec : Except Raised (List Byte)}
    (ho : o = s.finishBulk checks (fun _ => do let out ← dec; return plainResult out)) (hc : checks = .ok ()) :
    (∀ e, dec = .error e → ∃ t, o = .next t ∧ TrappedLosingOutput s t e)
      ∧ ∀ xs, dec = .ok xs → (xs.length ≤ s.cap.toNat → ∃ t, o = .next t ∧ Delivered s t (plainResult xs))
        ∧ (s.cap.toNat < xs.length → ∃ t, o = .next t ∧ TrappedLosingOutput s t ⟨.eCap, xs.length⟩) := by
  refine ⟨fun e he => State.raises ho hc (bind_of_error he _), fun xs hxs => ⟨fun hcap => ?_, fun hcap => ?_⟩⟩
  · obtain ⟨t, ht, -, hdelivered⟩ := State.delivers ho hc (pure_bind_ok hxs _) rfl hcap
    exact ⟨t, ht, hdelivered⟩
  · exact State.raisesCap ho hc (pure_bind_ok hxs _) rfl hcap

/-- A command with a result delivers it or raises `E_CAP`. -/
theorem State.deliversOrCap {result : Unit → Except Raised BulkResult} {b : BulkResult}
    (ho : o = s.finishBulk checks result) (hc : checks = .ok ()) (hr : result () = .ok b) :
    (b.out.length ≤ s.cap.toNat → ∃ t, o = .next t ∧ Delivered s t b)
      ∧ (s.cap.toNat < b.out.length → ∃ t, o = .next t ∧ TrappedLosingOutput s t ⟨.eCap, b.out.length⟩) := by
  refine ⟨fun hcap => ?_, fun hcap => State.raisesCap ho hc hr rfl hcap⟩
  obtain ⟨t, ht, -, hdelivered⟩ := State.delivers ho hc hr rfl hcap
  exact ⟨t, ht, hdelivered⟩

end

theorem map_ofNat_map_toNat (bytes : List Byte) : (bytes.map BitVec.toNat).map (BitVec.ofNat 8) = bytes := by
  simp [Function.comp_def]

/-! ### The strings of a sequence of codes (R311, R316) -/

/-- The string of code `c` in the cycle that begins at `start`. -/
def lzwStringAt (strs : List (List Nat)) (start c : Nat) : List Nat :=
  if c < 256 then [c] else strs.getD (start + (c - 256)) [] ++ [(strs.getD (start + (c - 256) + 1) []).headD 0]

theorem lzwStrings_iff {codes : List Nat} {strs : List (List Nat)} : LzwStrings codes strs ↔ strs.length = codes.length
    ∧ ∀ i c, codes[i]? = some c → strs.getD i [] = lzwStringAt strs (i - i % 3840) c := Iff.rfl

theorem lzwStringAt_ne_nil (strs : List (List Nat)) (start c : Nat) : lzwStringAt strs start c ≠ [] := by
  rw [lzwStringAt]
  split_ifs
  · exact List.cons_ne_nil _ _
  · exact List.append_ne_nil_of_right_ne_nil _ (List.cons_ne_nil _ _)

/-- The string of a code rests only on the strings up to the one after the code's. -/
theorem lzwStringAt_congr {strs strs' : List (List Nat)} {start c n : Nat} (hc : c < 256 ∨ start + (c - 256) + 1 < n)
    (h : ∀ k < n, strs'.getD k [] = strs.getD k []) : lzwStringAt strs' start c = lzwStringAt strs start c := by
  rw [lzwStringAt, lzwStringAt]
  split_ifs with hlit
  · rfl
  · rw [h _ (by omega), h _ (by omega)]

theorem getD_append_singleton_of_lt {α : Type} {l : List α} {x d : α} {k : Nat} (h : k < l.length) :
    (l ++ [x]).getD k d = l.getD k d := by
  rw [List.getD_append _ _ _ _ h]

@[simp] theorem getD_append_singleton_length {α : Type} (l : List α) (x d : α) : (l ++ [x]).getD l.length d = x := by
  rw [List.getD_append_right _ _ _ _ (Nat.le_refl _), Nat.sub_self, List.getD_cons_zero]

theorem getElem?_append_singleton {α : Type} {l : List α} {x y : α} {i : Nat} (h : (l ++ [x])[i]? = some y) :
    l[i]? = some y ∨ (i = l.length ∧ y = x) := by
  by_cases hi : i < l.length
  · exact .inl (by rwa [List.getElem?_append_left hi] at h)
  · obtain ⟨hlt, -⟩ := List.getElem?_eq_some_iff.mp h
    have hlen : i = l.length := by simp at hlt; omega
    subst hlen
    exact .inr ⟨rfl, by simpa using h.symm⟩

theorem headD_append_of_ne_nil {α : Type} {l : List α} (h : l ≠ []) (r : List α) (d : α) :
    (l ++ r).headD d = l.headD d := by
  cases l with
  | nil => exact absurd rfl h
  | cons x l => rfl

theorem lt_of_getElem?_eq_some {α : Type} {l : List α} {i : Nat} {x : α} (h : l[i]? = some x) : i < l.length :=
  (List.getElem?_eq_some_iff.mp h).1

theorem lzwCodesOk_nil : LzwCodesOk [] := fun _ _ h => nomatch h

theorem LzwCodesOk.concat {codes : List Nat} {c : Nat} (h : LzwCodesOk codes) (hc : c ≤ lzwCodeMax codes.length) :
    LzwCodesOk (codes ++ [c]) := fun i x hx => by
  obtain hx | ⟨rfl, rfl⟩ := getElem?_append_singleton hx
  exacts [h i x hx, hc]

theorem LzwCodesOk.of_append {codes more : List Nat} (h : LzwCodesOk (codes ++ more)) : LzwCodesOk codes :=
  fun i c hc => h i c (by rwa [List.getElem?_append_left (lt_of_getElem?_eq_some hc)])

/-- A good code names a literal or an entry whose two strings are no later than its own. -/
theorem lzwStringAt_concat {codes : List Nat} (h : LzwCodesOk codes) {i c : Nat} (hc : codes[i]? = some c)
    {strs strs' : List (List Nat)} (hstrs : ∀ k < i + 1, strs'.getD k [] = strs.getD k []) :
    lzwStringAt strs' (i - i % 3840) c = lzwStringAt strs (i - i % 3840) c := by
  have hmax := h i c hc
  rw [lzwCodeMax] at hmax
  exact lzwStringAt_congr (by omega) hstrs

theorem lzwStrings_nil : LzwStrings [] [] := ⟨rfl, fun _ _ h => nomatch h⟩

theorem LzwStrings.concat {codes : List Nat} {strs : List (List Nat)} (h : LzwStrings codes strs) (hok : LzwCodesOk codes)
    {c : Nat} {str : List Nat}
    (hstr : str = lzwStringAt (strs ++ [str]) (codes.length - codes.length % 3840) c) :
    LzwStrings (codes ++ [c]) (strs ++ [str]) := by
  obtain ⟨hlen, hall⟩ := lzwStrings_iff.mp h
  refine lzwStrings_iff.mpr ⟨by simp [hlen], fun i x hx => ?_⟩
  obtain hx | ⟨rfl, rfl⟩ := getElem?_append_singleton hx
  · have hi : i < strs.length := hlen.symm ▸ lt_of_getElem?_eq_some hx
    rw [getD_append_singleton_of_lt hi, hall i x hx]
    exact (lzwStringAt_concat hok hx fun k hk => getD_append_singleton_of_lt (by omega)).symm
  · rw [← hstr, ← hlen, getD_append_singleton_length]

/-- The codes determine their strings. -/
theorem LzwStrings.unique {codes : List Nat} {strs strs' : List (List Nat)} (hok : LzwCodesOk codes)
    (h : LzwStrings codes strs) (h' : LzwStrings codes strs') : strs = strs' := by
  obtain ⟨hlen, hall⟩ := lzwStrings_iff.mp h
  obtain ⟨hlen', hall'⟩ := lzwStrings_iff.mp h'
  have hget : ∀ i < codes.length, strs.getD i [] = strs'.getD i [] := by
    intro i
    induction i using Nat.strong_induction_on with
    | _ i ih =>
      intro hi
      have hc := List.getElem?_eq_getElem hi
      have hmax := hok i _ hc
      rw [lzwCodeMax] at hmax
      rw [hall i _ hc, hall' i _ hc, lzwStringAt, lzwStringAt]
      split_ifs with hlit
      · rfl
      · rw [ih (i - i % 3840 + (codes[i] - 256)) (by omega) (by omega)]
        by_cases hself : i - i % 3840 + (codes[i] - 256) + 1 < i
        · rw [ih _ hself (by omega)]
        · have hself : i - i % 3840 + (codes[i] - 256) + 1 = i := by omega
          have hprev : strs'.getD (i - i % 3840 + (codes[i] - 256)) [] ≠ [] := by
            rw [hall' _ _ (List.getElem?_eq_getElem (by omega))]
            exact lzwStringAt_ne_nil _ _ _
          have hhead : ∀ {l : List (List Nat)}, l.getD i [] = lzwStringAt l (i - i % 3840) codes[i] →
              l.getD (i - i % 3840 + (codes[i] - 256)) [] = strs'.getD (i - i % 3840 + (codes[i] - 256)) [] →
              (l.getD i []).headD 0 = (strs'.getD (i - i % 3840 + (codes[i] - 256)) []).headD 0 := by
            intro l hl heq
            rw [hl, lzwStringAt, if_neg hlit, heq, headD_append_of_ne_nil hprev]
          rw [hself, hhead (hall i _ hc) (ih _ (by omega) (by omega)), hhead (hall' i _ hc) rfl]
  refine List.ext_getElem (hlen.trans hlen'.symm) fun i hi hi' => ?_
  have := hget i (hlen ▸ hi)
  rwa [List.getD_eq_getElem _ _ hi, List.getD_eq_getElem _ _ hi'] at this

/-! ### Decoding a stream of codes (R316, R317) -/

/-- The decoder after the codes read so far. -/
structure LzwReady (codes : List Nat) (strs : List (List Nat)) (d : LzwDecoder) : Prop where
  /-- The strings given so far. -/
  strings : LzwStrings codes strs
  /-- No code was too great. -/
  codesOk : LzwCodesOk codes
  /-- The codes of the cycle. -/
  count : d.j = codes.length % 3840
  /-- Every code of the cycle but the first has made an entry. -/
  size : d.size = 256 + (d.j - 1)
  /-- The code before, in the cycle. -/
  prev : d.prev = if d.j = 0 then none else codes.getLast?
  /-- The entries are the cycle's strings, each with the first byte of the next. -/
  entries : ∀ m, m + 1 < d.j → d.entries.lookup (256 + m) =
    some (strs.getD (codes.length - d.j + m) [] ++ [(strs.getD (codes.length - d.j + m + 1) []).headD 0])

theorem lzwReady_fresh {codes : List Nat} {strs : List (List Nat)} (h : LzwStrings codes strs) (hok : LzwCodesOk codes)
    (hmod : codes.length % 3840 = 0) : LzwReady codes strs lzwFresh :=
  ⟨h, hok, hmod.symm, rfl, rfl, fun _ hm => absurd hm (Nat.not_lt_zero _)⟩

theorem lzwWidth_eq (i : Nat) : lzwWidth (256 + i % 3840) = lzwCodeWidth i := by
  rw [lzwWidth, lzwCodeWidth]
  split_ifs <;> omega

theorem lt_two_pow_lzwCodeWidth {i c : Nat} (h : c ≤ lzwCodeMax i) : c < 2 ^ lzwCodeWidth i := by
  rw [lzwCodeMax] at h
  rw [lzwCodeWidth]
  split_ifs <;> omega

section
variable {codes : List Nat} {strs : List (List Nat)} {d : LzwDecoder}

theorem LzwReady.count_lt (h : LzwReady codes strs d) : d.j < 3840 := h.count ▸ Nat.mod_lt _ (by decide)

theorem LzwReady.count_le (h : LzwReady codes strs d) : d.j ≤ codes.length := h.count ▸ Nat.mod_le _ _

theorem LzwReady.string (h : LzwReady codes strs d) {c : Nat} (hc : c < d.size) :
    lzwString d.entries c = lzwStringAt strs (codes.length - d.j) c := by
  rw [lzwString, lzwStringAt]
  split_ifs with hlit
  · rfl
  · have hsize := h.size
    rw [show c = 256 + (c - 256) by omega, h.entries (c - 256) (by omega), Option.getD_some, Nat.add_sub_cancel_left]

/-- The string of the code before. -/
theorem LzwReady.string_prev (h : LzwReady codes strs d) {prev : Nat} (hprev : d.prev = some prev) :
    1 ≤ d.j ∧ lzwString d.entries prev = strs.getD (codes.length - 1) [] := by
  have hlast := h.prev
  rw [hprev] at hlast
  split_ifs at hlast with hj
  have hcode : codes[codes.length - 1]? = some prev := by rw [← List.getLast?_eq_getElem?, ← hlast]
  have hmax := h.codesOk _ _ hcode
  have hcount := h.count
  have hle := h.count_le
  have hsize := h.size
  rw [lzwCodeMax] at hmax
  refine ⟨Nat.pos_of_ne_zero hj, ?_⟩
  rw [h.string (by omega), (lzwStrings_iff.mp h.strings).2 _ _ hcode]
  congr 1
  omega

/-- One more code: its string and its entry, then the clear at the end of the cycle. -/
theorem LzwReady.advance (h : LzwReady codes strs d) {c : Nat} (hc : c ≤ lzwCodeMax codes.length) {str : List Nat}
    (hstr : str = lzwStringAt (strs ++ [str]) (codes.length - d.j) c) {d' : LzwDecoder} (hj : d'.j = d.j)
    (hsize : d'.size = 256 + d.j) (hentries : ∀ m < d.j, d'.entries.lookup (256 + m) =
      some ((strs ++ [str]).getD (codes.length - d.j + m) []
        ++ [((strs ++ [str]).getD (codes.length - d.j + m + 1) []).headD 0])) :
    LzwReady (codes ++ [c]) (strs ++ [str]) (lzwAdvance d' c) := by
  have hcount := h.count
  have hle := h.count_le
  have hlt := h.count_lt
  have hlen : (codes ++ [c]).length = codes.length + 1 := by simp
  have hstrings := h.strings.concat h.codesOk (hcount ▸ hstr)
  have hok := h.codesOk.concat hc
  rw [lzwAdvance]
  split_ifs with hend
  · have hend : d.j + 1 = 3840 := hj ▸ hend
    exact lzwReady_fresh hstrings hok (by omega)
  · have hend : d.j + 1 ≠ 3840 := hj ▸ hend
    refine ⟨hstrings, hok, ?_, ?_, ?_, fun m hm => ?_⟩
    · change d'.j + 1 = _
      omega
    · rw [hsize, hj, Nat.add_sub_cancel]
    · rw [if_neg (Nat.succ_ne_zero _), List.getLast?_concat]
    · rw [hj] at hm ⊢
      rw [hentries m (Nat.lt_of_succ_lt_succ hm), hlen, Nat.add_sub_add_right]

/-- A code that is not too great is accepted. -/
theorem LzwReady.accept (h : LzwReady codes strs d) {c : Nat} (hc : c ≤ lzwCodeMax codes.length) :
    ∃ str d', lzwAccept d c = .ok (str, d') ∧ LzwReady (codes ++ [c]) (strs ++ [str]) (lzwAdvance d' c) := by
  have hmax : c ≤ 255 + d.j := by rw [h.count]; exact hc
  have hlen : strs.length = codes.length := (lzwStrings_iff.mp h.strings).1
  have hle := h.count_le
  have hsize := h.size
  have hprev := h.prev
  cases hp : d.prev with
  | none =>
    have hj : d.j = 0 := by
      by_contra hj
      rw [hp, if_neg hj, eq_comm, List.getLast?_eq_none_iff] at hprev
      subst hprev
      exact hj (Nat.le_zero.mp hle)
    refine ⟨[c], d, ?_, h.advance hc ?_ rfl (by omega) (fun m hm => absurd hm (by omega))⟩
    · rw [lzwAccept, hp]
      exact if_neg (by omega)
    · rw [lzwStringAt, if_pos (by omega)]
  | some prev =>
    obtain ⟨hj, hstring⟩ := h.string_prev hp
    have hlast : codes.length - 1 < strs.length := by omega
    have hindex : codes.length - d.j + (d.j - 1) = codes.length - 1 := by omega
    have hexpand : ∃ str, lzwExpand d.entries d.size prev c = .ok str
        ∧ str = lzwStringAt (strs ++ [str]) (codes.length - d.j) c := by
      rw [lzwExpand]
      split_ifs with hold hself
      · refine ⟨_, rfl, ?_⟩
        rw [h.string hold]
        exact (lzwStringAt_congr (n := strs.length) (by omega) fun k hk => getD_append_singleton_of_lt hk).symm
      · refine ⟨_, rfl, ?_⟩
        rw [lzwStringAt, if_neg (by omega), show c - 256 = d.j - 1 by omega, hindex, getD_append_singleton_of_lt hlast,
          Nat.sub_add_cancel (by omega), ← hlen, getD_append_singleton_length, hlen, hstring,
          headD_append_of_ne_nil]
        have hcode := List.getElem?_eq_getElem (show codes.length - 1 < codes.length by omega)
        rw [(lzwStrings_iff.mp h.strings).2 _ _ hcode]
        exact lzwStringAt_ne_nil _ _ _
      · omega
    obtain ⟨str, hexpand, hstr⟩ := hexpand
    refine ⟨str, { d with
      entries := (d.size, lzwString d.entries prev ++ [str.headD 0]) :: d.entries
      size := d.size + 1 }, ?_, h.advance hc hstr rfl ?_ fun m hm => ?_⟩
    · rw [lzwAccept, hp]
      simp only [hexpand]
    · change d.size + 1 = _
      omega
    change List.lookup (256 + m) ((d.size, lzwString d.entries prev ++ [str.headD 0]) :: d.entries) = _
    obtain hm | rfl : m + 1 < d.j ∨ m = d.j - 1 := by omega
    · have hne : (256 + m == d.size) = false := by rw [beq_eq_false_iff_ne]; omega
      rw [List.lookup_cons, hne, h.entries m hm, getD_append_singleton_of_lt (by omega),
        getD_append_singleton_of_lt (by omega)]
    · have heq : (256 + (d.j - 1) == d.size) = true := by rw [beq_iff_eq]; omega
      rw [List.lookup_cons, heq, hstring, hindex, getD_append_singleton_of_lt hlast, Nat.sub_add_cancel (by omega), ← hlen,
        getD_append_singleton_length]

/-- A code above the entry in the making is rejected. -/
theorem LzwReady.reject (h : LzwReady codes strs d) {c : Nat} (hc : lzwCodeMax codes.length < c) :
    lzwAccept d c = .error ⟨.eLzwCode, c⟩ := by
  have hmax : 255 + d.j < c := by rw [h.count]; exact hc
  have hsize := h.size
  cases hp : d.prev with
  | none =>
    rw [lzwAccept, hp]
    exact if_pos (by omega)
  | some prev =>
    obtain ⟨hj, -⟩ := h.string_prev hp
    have hexpand : lzwExpand d.entries d.size prev c = .error ⟨.eLzwCode, c⟩ := by
      rw [lzwExpand, if_neg (by omega), if_neg (by omega)]
    rw [lzwAccept, hp]
    simp only [hexpand]

end

/-- The bits of codes from number `n` of a stream on. -/
def lzwCodeBitsFrom (n : Nat) (codes : List Nat) : List Bool :=
  (codes.zipIdx n).flatMap (fun p => putBits p.1 (lzwCodeWidth p.2))

theorem lzwCodeBits_eq (codes : List Nat) : lzwCodeBits codes = lzwCodeBitsFrom 0 codes := rfl

theorem lzwCodeBitsFrom_cons (n c : Nat) (codes : List Nat) :
    lzwCodeBitsFrom n (c :: codes) = putBits c (lzwCodeWidth n) ++ lzwCodeBitsFrom (n + 1) codes := by
  rw [lzwCodeBitsFrom, List.zipIdx_cons, List.flatMap_cons, lzwCodeBitsFrom]

theorem lzwCodeWidth_pos (i : Nat) : 1 ≤ lzwCodeWidth i := by
  rw [lzwCodeWidth]
  split_ifs <;> omega

theorem length_le_lzwCodeBitsFrom (n : Nat) (codes : List Nat) : codes.length ≤ (lzwCodeBitsFrom n codes).length := by
  induction codes generalizing n with
  | nil => exact Nat.zero_le _
  | cons c codes ih =>
    have hwidth := lzwCodeWidth_pos n
    have hrest := ih (n + 1)
    rw [lzwCodeBitsFrom_cons, List.length_append, length_putBits, List.length_cons]
    omega

section
variable {fuel : Nat} {rd rd' : BitReader} {d d' : LzwDecoder} {c : Nat} {str : List Nat} {e : Raised}

theorem lzwDecodeLoop_end (fuel pos : Nat) (d : LzwDecoder) : lzwDecodeLoop fuel { bits := [], pos := pos } d = .ok [] := by
  cases fuel <;> rfl

theorem lzwDecodeLoop_accept (hbits : rd.bits ≠ []) (hget : getBits (lzwWidth (256 + d.j)) rd = .ok (c, rd'))
    (haccept : lzwAccept d c = .ok (str, d')) : lzwDecodeLoop (fuel + 1) rd d =
      (lzwDecodeLoop fuel rd' (lzwAdvance d' c)).map (fun rest => str ++ rest) := by
  rw [lzwDecodeLoop, if_neg (by simpa using hbits), pure_bind_ok hget]
  simp only [pure_bind_ok haccept]
  cases lzwDecodeLoop fuel rd' (lzwAdvance d' c) <;> rfl

theorem lzwDecodeLoop_trunc (hbits : rd.bits ≠ []) (hget : getBits (lzwWidth (256 + d.j)) rd = .error e) :
    lzwDecodeLoop (fuel + 1) rd d = .error e := by
  rw [lzwDecodeLoop, if_neg (by simpa using hbits), bind_of_error hget]

theorem lzwDecodeLoop_reject (hbits : rd.bits ≠ []) (hget : getBits (lzwWidth (256 + d.j)) rd = .ok (c, rd'))
    (haccept : lzwAccept d c = .error e) : lzwDecodeLoop (fuel + 1) rd d = .error e := by
  rw [lzwDecodeLoop, if_neg (by simpa using hbits), pure_bind_ok hget]
  simp only [bind_of_error haccept]

end

theorem putBits_append_ne_nil {w : Nat} (hw : 1 ≤ w) (v : Nat) (tail : List Bool) : putBits v w ++ tail ≠ [] := by
  refine List.append_ne_nil_of_left_ne_nil (fun h => ?_) _
  have := congrArg List.length h
  rw [length_putBits, List.length_nil] at this
  omega

/-- Codes that are not too great are read, and their strings given. -/
theorem lzwDecodeLoop_codes {codes : List Nat} {strs : List (List Nat)} {d : LzwDecoder} (h : LzwReady codes strs d)
    (more : List Nat) (hok : LzwCodesOk (codes ++ more)) :
    ∃ strs' d', LzwReady (codes ++ more) (strs ++ strs') d' ∧ ∀ fuel pos tail,
      lzwDecodeLoop (more.length + fuel) { bits := lzwCodeBitsFrom codes.length more ++ tail, pos := pos } d =
        (lzwDecodeLoop fuel { bits := tail, pos := pos + (lzwCodeBitsFrom codes.length more).length } d').map
          (fun rest => strs'.flatten ++ rest) := by
  induction more generalizing codes strs d with
  | nil =>
    refine ⟨[], d, by simpa using h, fun fuel pos tail => ?_⟩
    change lzwDecodeLoop (0 + fuel) { bits := tail, pos := pos } d = _
    rw [Nat.zero_add]
    change _ = (lzwDecodeLoop fuel { bits := tail, pos := pos } d).map (fun rest => rest)
    cases lzwDecodeLoop fuel { bits := tail, pos := pos } d <;> rfl
  | cons c more ih =>
    have hc : c ≤ lzwCodeMax codes.length := hok _ _ (by simp)
    obtain ⟨str, d₁, haccept, hready⟩ := h.accept hc
    obtain ⟨strs', d', hready', hrun⟩ := ih hready (by simpa using hok)
    refine ⟨str :: strs', d', by simpa using hready', fun fuel pos tail => ?_⟩
    have hget := getBits_putBits (lt_two_pow_lzwCodeWidth hc) pos (lzwCodeBitsFrom (codes.length + 1) more ++ tail)
    rw [← lzwWidth_eq, ← h.count] at hget
    have hlen : (codes ++ [c]).length = codes.length + 1 := by simp
    rw [hlen] at hrun
    rw [lzwCodeBitsFrom_cons, List.append_assoc, List.length_cons, Nat.add_right_comm, ← lzwWidth_eq, ← h.count,
      lzwDecodeLoop_accept (putBits_append_ne_nil ?_ _ _) hget haccept, hrun, List.length_append, length_putBits,
      Nat.add_assoc]
    · cases lzwDecodeLoop fuel _ d' <;> simp [Except.map]
    · rw [h.count, lzwWidth_eq]
      exact lzwCodeWidth_pos _

theorem lzwDecode_error {bytes : List Byte} {pad : Nat} (h : 7 < pad ∨ 8 * bytes.length < pad) :
    lzwDecode bytes pad = .error ⟨.ePadb, pad⟩ := bind_of_error (newReader_error h) _

/-- A stream that begins with good codes: their strings, then what the loop makes of the rest. -/
theorem lzwDecode_codes {bytes : List Byte} {pad : Nat} {codes : List Nat} {tail : List Bool} (hpad : pad ≤ 7)
    (hle : pad ≤ 8 * bytes.length) (hok : LzwCodesOk codes) (hbits : streamBits bytes pad = lzwCodeBits codes ++ tail) :
    ∃ strs d fuel, LzwReady codes strs d ∧ tail.length ≤ fuel ∧ lzwDecode bytes pad =
      (lzwDecodeLoop fuel { bits := tail, pos := (lzwCodeBits codes).length } d).map
        (fun rest => (strs.flatten ++ rest).map (BitVec.ofNat 8)) := by
  obtain ⟨strs, d, hready, hrun⟩ := lzwDecodeLoop_codes (lzwReady_fresh lzwStrings_nil lzwCodesOk_nil rfl) codes hok
  have hcodes : codes.length ≤ (lzwCodeBits codes).length := length_le_lzwCodeBitsFrom 0 codes
  have hfuel : (streamBits bytes pad).length =
      codes.length + ((lzwCodeBits codes).length - codes.length + tail.length) := by
    rw [hbits, List.length_append]
    omega
  refine ⟨strs, d, (lzwCodeBits codes).length - codes.length + tail.length, hready, by omega, ?_⟩
  have hrun := hrun ((lzwCodeBits codes).length - codes.length + tail.length) 0 tail
  rw [List.length_nil, ← lzwCodeBits_eq, ← hbits, Nat.zero_add, ← hfuel] at hrun
  rw [lzwDecode, pure_bind_ok (newReader_ok hpad hle)]
  simp only [hrun]
  cases lzwDecodeLoop _ { bits := tail, pos := (lzwCodeBits codes).length } d <;> rfl

section
variable {bytes : List Byte} {pad : Nat} {codes : List Nat} {tail : List Bool}

/-- The bits end inside a code. -/
theorem lzwDecode_trunc (hpad : pad ≤ 7) (hle : pad ≤ 8 * bytes.length) (hok : LzwCodesOk codes)
    (hbits : streamBits bytes pad = lzwCodeBits codes ++ tail) (htail : tail ≠ [])
    (hshort : tail.length < lzwCodeWidth codes.length) :
    lzwDecode bytes pad = .error ⟨.eStreamTrunc, (lzwCodeBits codes).length⟩ := by
  obtain ⟨strs, d, fuel, hready, hfuel, hdecode⟩ := lzwDecode_codes hpad hle hok hbits
  have hpos := List.length_pos_iff.mpr htail
  obtain ⟨fuel, rfl⟩ := Nat.exists_eq_succ_of_ne_zero (show fuel ≠ 0 by omega)
  rw [← lzwWidth_eq, ← hready.count] at hshort
  rw [hdecode, lzwDecodeLoop_trunc htail (getBits_eq_error hshort)]
  rfl

/-- The next code is too great. -/
theorem lzwDecode_reject (hpad : pad ≤ 7) (hle : pad ≤ 8 * bytes.length) (hok : LzwCodesOk codes)
    (hbits : streamBits bytes pad = lzwCodeBits codes ++ tail) {c : Nat} (hc : c < 2 ^ lzwCodeWidth codes.length)
    (hnext : putBits c (lzwCodeWidth codes.length) <+: tail) (hmax : lzwCodeMax codes.length < c) :
    lzwDecode bytes pad = .error ⟨.eLzwCode, c⟩ := by
  obtain ⟨rest, rfl⟩ := hnext
  obtain ⟨strs, d, fuel, hready, hfuel, hdecode⟩ := lzwDecode_codes hpad hle hok hbits
  have hwidth := lzwCodeWidth_pos codes.length
  rw [List.length_append, length_putBits] at hfuel
  obtain ⟨fuel, rfl⟩ := Nat.exists_eq_succ_of_ne_zero (show fuel ≠ 0 by omega)
  have hget := getBits_putBits hc (lzwCodeBits codes).length rest
  rw [← lzwWidth_eq, ← hready.count] at hget hwidth hdecode
  rw [hdecode, lzwDecodeLoop_reject (putBits_append_ne_nil hwidth _ _) hget (hready.reject hmax)]
  rfl

/-- The stream ends after the codes. -/
theorem lzwDecode_ok (hpad : pad ≤ 7) (hle : pad ≤ 8 * bytes.length) (hok : LzwCodesOk codes)
    (hbits : streamBits bytes pad = lzwCodeBits codes) {strs : List (List Nat)} (hstrs : LzwStrings codes strs) :
    lzwDecode bytes pad = .ok (strs.flatten.map (BitVec.ofNat 8)) := by
  obtain ⟨strs', d, fuel, hready, -, hdecode⟩ :=
    lzwDecode_codes (tail := []) hpad hle hok (by rw [hbits, List.append_nil])
  obtain rfl := hstrs.unique hok hready.strings
  rw [hdecode, lzwDecodeLoop_end, Except.map, List.append_nil]

end

/-! ### Encoding (R313, R314) -/

/-- The encoder while it matches: the codes written and their strings, and the match in progress with its string `u`. -/
structure LzwMatching (codes : List Nat) (strs : List (List Nat)) (cur : Nat) (u : List Nat) (dict : LzwDict)
    (size : Nat) : Prop where
  /-- The strings of the codes written. -/
  strings : LzwStrings codes strs
  /-- None is too great. -/
  codesOk : LzwCodesOk codes
  /-- `size` counts the codes of the cycle. -/
  size_eq : size = 256 + codes.length % 3840
  /-- The match in progress is a good next code. -/
  cur_le : cur ≤ lzwCodeMax codes.length
  /-- Its string. -/
  cur_string : u = lzwStringAt (strs ++ [u]) (codes.length - codes.length % 3840) cur
  /-- Entry `256 + m` is code `m` of the cycle and the first byte of the string after it. -/
  entry : ∀ c b code, dict.lookup (c, b) = some code → ∃ m < codes.length % 3840, code = 256 + m
    ∧ codes[codes.length - codes.length % 3840 + m]? = some c
    ∧ ((strs ++ [u]).getD (codes.length - codes.length % 3840 + m + 1) []).headD 0 = b

/-- Appending to the last string changes no first element. -/
theorem headD_getD_concat {strs : List (List Nat)} {u : List Nat} (hu : u ≠ []) (r : List Nat) (n : Nat) :
    ((strs ++ [u ++ r]).getD n []).headD 0 = ((strs ++ [u]).getD n []).headD 0 := by
  obtain hn | rfl | hn := Nat.lt_trichotomy n strs.length
  · rw [getD_append_singleton_of_lt hn, getD_append_singleton_of_lt hn]
  · rw [getD_append_singleton_length, getD_append_singleton_length, headD_append_of_ne_nil hu]
  · rw [List.getD_eq_default _ _ (by simp; omega), List.getD_eq_default _ _ (by simp; omega)]

section
variable {codes : List Nat} {strs : List (List Nat)} {cur b size : Nat} {u : List Nat} {dict : LzwDict}

theorem LzwMatching.length_strs (h : LzwMatching codes strs cur u dict size) : strs.length = codes.length :=
  (lzwStrings_iff.mp h.strings).1

theorem LzwMatching.string_ne_nil (h : LzwMatching codes strs cur u dict size) : u ≠ [] :=
  h.cur_string ▸ lzwStringAt_ne_nil _ _ _

/-- The match goes on with the next byte. -/
theorem LzwMatching.extend (h : LzwMatching codes strs cur u dict size) {code : Nat}
    (hlook : dict.lookup (cur, b) = some code) : LzwMatching codes strs code (u ++ [b]) dict size := by
  have hu := h.string_ne_nil
  have hlen := h.length_strs
  obtain ⟨m, hm, rfl, hcode, hnext⟩ := h.entry _ _ _ hlook
  refine ⟨h.strings, h.codesOk, h.size_eq, by rw [lzwCodeMax]; omega, ?_, fun c b' code hlook' => ?_⟩
  · have hmax := h.codesOk _ _ hcode
    rw [lzwCodeMax] at hmax
    have hsame : strs.getD (codes.length - codes.length % 3840 + m) [] = u := by
      rw [(lzwStrings_iff.mp h.strings).2 _ _ hcode, h.cur_string,
        show codes.length - codes.length % 3840 + m - (codes.length - codes.length % 3840 + m) % 3840
          = codes.length - codes.length % 3840 by omega]
      exact (lzwStringAt_congr (n := strs.length) (by omega) fun k hk => getD_append_singleton_of_lt hk).symm
    rw [lzwStringAt, if_neg (by omega), Nat.add_sub_cancel_left, getD_append_singleton_of_lt (by omega), hsame,
      headD_getD_concat hu, hnext]
  · obtain ⟨m', hm', hcode', hc', hb'⟩ := h.entry _ _ _ hlook'
    exact ⟨m', hm', hcode', hc', by rw [headD_getD_concat hu, hb']⟩

/-- The match ends: its code is written, and the next match begins at the next byte. -/
theorem LzwMatching.emit (h : LzwMatching codes strs cur u dict size) (hb : b < 256) :
    LzwMatching (codes ++ [cur]) (strs ++ [u]) b [b] (if size + 1 = Config.lzwCap then [] else ((cur, b), size) :: dict)
      (if size + 1 = Config.lzwCap then 256 else size + 1) := by
  have hsize := h.size_eq
  have hlen := h.length_strs
  have hcodes : (codes ++ [cur]).length = codes.length + 1 := by simp
  have hstrs : (strs ++ [u]).length = codes.length + 1 := by simp [hlen]
  have hcap : size + 1 = Config.lzwCap ↔ codes.length % 3840 = 3839 := by
    rw [show Config.lzwCap = 4096 from rfl, hsize]; omega
  refine ⟨h.strings.concat h.codesOk h.cur_string, h.codesOk.concat h.cur_le, ?_, by rw [lzwCodeMax]; omega,
    by rw [lzwStringAt, if_pos hb], fun c b' code hlook => ?_⟩
  · rw [hcodes]
    split_ifs with hend
    · have := hcap.mp hend; omega
    · have := mt hcap.mpr hend; omega
  · split_ifs at hlook with hend
    · cases hlook
    have hend := mt hcap.mpr hend
    rw [hcodes, show codes.length + 1 - (codes.length + 1) % 3840 = codes.length - codes.length % 3840 by omega,
      show (codes.length + 1) % 3840 = codes.length % 3840 + 1 by omega]
    rw [List.lookup_cons] at hlook
    split at hlook
    case h_1 hkey =>
      obtain ⟨rfl, rfl⟩ : c = cur ∧ b' = b := by simpa using hkey
      obtain rfl := Option.some.inj hlook
      have hlast : codes.length - codes.length % 3840 + codes.length % 3840 = codes.length :=
        Nat.sub_add_cancel (Nat.mod_le _ _)
      refine ⟨codes.length % 3840, Nat.lt_succ_self _, hsize, by rw [hlast]; simp, ?_⟩
      rw [hlast, ← hstrs, getD_append_singleton_length]
      rfl
    case h_2 hkey =>
      obtain ⟨m, hm, hcode, hc, hb'⟩ := h.entry _ _ _ hlook
      refine ⟨m, by omega, hcode, ?_, ?_⟩
      · rw [List.getElem?_append_left (lt_of_getElem?_eq_some hc), hc]
      · rw [getD_append_singleton_of_lt (by omega), hb']

end

/-- What the encoder writes from a match on. -/
theorem lzwEncodeLoop_spec {codes : List Nat} {strs : List (List Nat)} {cur size : Nat} {u xs : List Nat} {dict : LzwDict}
    (h : LzwMatching codes strs cur u dict size) (hxs : ∀ x ∈ xs, x < 256) : ∃ more strs',
      lzwEncodeLoop xs cur dict size = (more.zipIdx codes.length).map (fun p => (p.1, lzwCodeWidth p.2))
        ∧ LzwCodesOk (codes ++ more) ∧ LzwStrings (codes ++ more) (strs ++ strs') ∧ strs'.flatten = u ++ xs := by
  induction xs generalizing codes strs cur size u dict with
  | nil =>
    refine ⟨[cur], [u], ?_, h.codesOk.concat h.cur_le, h.strings.concat h.codesOk h.cur_string, by simp⟩
    rw [lzwEncodeLoop, h.size_eq, lzwWidth_eq]
    rfl
  | cons b xs ih =>
    obtain ⟨hb, hxs⟩ := List.forall_mem_cons.mp hxs
    rw [lzwEncodeLoop]
    cases hlook : dict.lookup (cur, b) with
    | some code =>
      obtain ⟨more, strs', hruns, hok, hstrs, hflat⟩ := ih (h.extend hlook) hxs
      exact ⟨more, strs', hruns, hok, hstrs, by rw [hflat, List.append_assoc]; rfl⟩
    | none =>
      obtain ⟨more, strs', hruns, hok, hstrs, hflat⟩ := ih (h.emit hb) hxs
      refine ⟨cur :: more, u :: strs', ?_, by simpa using hok, by simpa using hstrs, ?_⟩
      · have hlen : (codes ++ [cur]).length = codes.length + 1 := by simp
        rw [hlen] at hruns
        rw [List.zipIdx_cons, List.map_cons, ← hruns, h.size_eq, lzwWidth_eq]
        split_ifs <;> rfl
      · rw [List.flatten_cons, hflat]
        rfl

/-- The encoder's stream: good codes whose strings are the input. -/
theorem lzwRuns_spec {xs : List Nat} (hxs : ∀ x ∈ xs, x < 256) : ∃ codes strs, runBits (lzwRuns xs) = lzwCodeBits codes
    ∧ LzwCodesOk codes ∧ LzwStrings codes strs ∧ strs.flatten = xs := by
  cases xs with
  | nil => exact ⟨[], [], rfl, lzwCodesOk_nil, lzwStrings_nil, rfl⟩
  | cons b xs =>
    obtain ⟨hb, hxs⟩ := List.forall_mem_cons.mp hxs
    have hstart : LzwMatching [] [] b [b] [] 256 :=
      ⟨lzwStrings_nil, lzwCodesOk_nil, rfl, Nat.le_of_lt_succ hb, by rw [lzwStringAt, if_pos hb], fun _ _ _ h => nomatch h⟩
    obtain ⟨codes, strs, hruns, hok, hstrs, hflat⟩ := lzwEncodeLoop_spec hstart hxs
    refine ⟨codes, strs, ?_, hok, hstrs, hflat⟩
    rw [lzwRuns, hruns, runBits, List.flatMap_map, lzwCodeBits]
    rfl

theorem lzwEncode_spec (bytes : List Byte) : ∃ codes strs, lzwEncode bytes = finishBits (lzwCodeBits codes)
    ∧ LzwCodesOk codes ∧ LzwStrings codes strs ∧ strs.flatten = bytes.map BitVec.toNat := by
  have hbytes : ∀ x ∈ bytes.map BitVec.toNat, x < 256 := fun x hx => by
    obtain ⟨b, -, rfl⟩ := List.mem_map.mp hx
    exact b.isLt
  obtain ⟨codes, strs, hbits, hok, hstrs, hflat⟩ := lzwRuns_spec hbytes
  exact ⟨codes, strs, by rw [lzwEncode, hbits], hok, hstrs, hflat⟩

/-- Settles O52: the decoder gives the strings into which the encoder cut its input. -/
theorem lzwRoundTrip : Obligations.LzwRoundTrip := by
  unfold Obligations.LzwRoundTrip
  intro xs
  obtain ⟨codes, strs, hencode, hok, hstrs, hflat⟩ := lzwEncode_spec xs
  have hlen := length_finishBits (lzwCodeBits codes)
  have hpad : (finishBits (lzwCodeBits codes)).2 ≤ 7 := padCount_le _
  rw [hencode, lzwDecode_ok hpad (hlen ▸ Nat.le_add_left _ _) hok (streamBits_finishBits _) hstrs, hflat,
    map_ofNat_map_toNat]

/-! ### The commands -/

/-- The first bits of a stream of two bytes or more. -/
theorem putBits_nine_prefix (b₀ b₁ : Byte) (rest : List Byte) {pad : Nat} (hpad : 9 + pad ≤ 8 * (b₀ :: b₁ :: rest).length) :
    putBits (2 * b₀.toNat + (b₁.getLsbD 7).toNat) 9 <+: streamBits (b₀ :: b₁ :: rest) pad := by
  rw [streamBits_eq, List.prefix_take_iff, length_putBits, putBits_concat]
  refine ⟨⟨putBits b₁.toNat 7 ++ rest.flatMap bitsOfByte, ?_⟩, by omega⟩
  rw [List.flatMap_cons, List.flatMap_cons, bitsOfByte, bitsOfByte, putBits.eq_2 b₁.toNat 7, BitVec.testBit_toNat]
  simp

/-- Settles O51. -/
theorem lzwCommands : Obligations.LzwCommands := by
  unfold Obligations.LzwCommands
  refine ⟨fun s out pad hready hout => ?_, fun s hready => ?_, fun pad bytes => ⟨lzwDecode_error, ?_⟩⟩
  · have hexec : exec .lzwe s = s.finishBulk (s.byteChecks s.len.toNat) (fun _ =>
        .ok { plainResult (lzwEncode s.inBytes).1 with padb := some (lzwEncode s.inBytes).2 }) := rfl
    obtain ⟨codes, -, hencode, hok, -, -⟩ := lzwEncode_spec (s.readBytes s.pa.toNat s.len.toNat)
    refine ⟨⟨codes, hout.trans hencode, hok⟩, ?_⟩
    have hin : lzwEncode s.inBytes = (out, pad) := hout.symm
    rw [hin] at hexec
    exact State.deliversOrCap hexec (State.byteChecks_ok.mpr hready) rfl
  · have hlen : s.inBytes.length = s.len.toNat := s.length_readBytes _ _
    obtain ⟨hraises, hdelivers⟩ := State.decodes (s := s) (o := exec .lzwd s) (dec := lzwDecode s.inBytes s.padb.toNat) rfl
      (State.byteChecks_ok.mpr hready)
    refine ⟨fun hpad => hraises _ (lzwDecode_error (hlen ▸ hpad)), fun code hpad hlong hcode hbad => ?_, hraises,
      fun xs hxs => hdelivers xs (hxs.elim (fun h => ?_) id)⟩
    · refine hraises _ ?_
      obtain ⟨n, hn⟩ := Nat.exists_eq_add_of_le (show 2 ≤ s.len.toNat by omega)
      have hbytes : s.inBytes = s.readByte s.pa.toNat :: s.readByte (s.pa.toNat + 1)
          :: s.readBytes (s.pa.toNat + 1 + 1) n := by
        rw [State.inBytes, hn, Nat.add_comm 2 n]
        rfl
      rw [← hlen, hbytes] at hlong
      have hprefix := putBits_nine_prefix _ _ _ hlong
      rw [← hcode, ← hbytes] at hprefix
      have hfit : code < 2 ^ 9 := by
        have hbyte := (s.readByte s.pa.toNat).isLt
        have hbit := ((s.readByte (s.pa.toNat + 1)).getLsbD 7).toNat_le
        omega
      exact lzwDecode_reject (codes := []) hpad (by omega) lzwCodesOk_nil rfl hfit hprefix hbad
    · have hround := lzwRoundTrip xs
      rw [h] at hround
      exact hround
  · intro codes tail hpad hle hok hbits
    refine ⟨lzwDecode_trunc hpad hle hok hbits, fun c => lzwDecode_reject hpad hle hok hbits, fun strs htail => ?_⟩
    subst htail
    rw [List.append_nil] at hbits
    exact lzwDecode_ok hpad hle hok hbits

end Sys2Proof.Machine


/-! PROOFS. The Huffman codes (47_huffman.md R281 to R286): the tree has the occurring symbols as its leaves, and the paths
to its leaves are codes of which none begins another. -/

namespace Sys2Proof.Machine

/-! ### Lookups -/

theorem mem_of_lookup_eq_some {α β : Type} [BEq α] [LawfulBEq α] {l : List (α × β)} {k : α} {b : β}
    (h : l.lookup k = some b) : (k, b) ∈ l := by
  obtain ⟨l₁, l₂, rfl, -⟩ := List.lookup_eq_some_iff.mp h
  exact List.mem_append_right _ List.mem_cons_self

theorem lookup_eq_some_of_mem {α β : Type} [BEq α] [LawfulBEq α] {l : List (α × β)} (hkeys : (l.map Prod.fst).Nodup)
    {k : α} {b : β} (h : (k, b) ∈ l) : l.lookup k = some b := by
  obtain ⟨l₁, l₂, rfl⟩ := List.append_of_mem h
  refine List.lookup_eq_some_iff.mpr ⟨l₁, l₂, rfl, fun p hp => ?_⟩
  rw [List.map_append, List.map_cons, List.nodup_append] at hkeys
  obtain ⟨-, -, hdisjoint⟩ := hkeys
  have hne : p.1 ≠ k := hdisjoint p.1 (List.mem_map_of_mem hp) k List.mem_cons_self
  simpa using Ne.symm hne

/-! ### The leaves of the tree (R281 to R283) -/

/-- The symbols of a tree, from left to right. -/
def HufTree.leaves : HufTree → List Nat
  | .leaf s => [s]
  | .node left right => left.leaves ++ right.leaves

/-- The symbols of the trees in a queue. -/
def queueLeaves (q : List HufEntry) : List Nat := q.flatMap (fun e => e.tree.leaves)

/-- The symbols of a root, if there is one. -/
def rootLeaves (root : Option HufTree) : List Nat := root.elim [] HufTree.leaves

theorem hufInsert_perm (e : HufEntry) (q : List HufEntry) : (hufInsert e q).Perm (e :: q) := by
  induction q with
  | nil => exact .refl _
  | cons h q ih =>
    rw [hufInsert]
    split_ifs
    · exact .refl _
    · exact (ih.cons h).trans (.swap e h q)

theorem queueLeaves_hufInsert (e : HufEntry) (q : List HufEntry) :
    (queueLeaves (hufInsert e q)).Perm (e.tree.leaves ++ queueLeaves q) := (hufInsert_perm e q).flatMap_right _

theorem hufLeaves_perm (xs : List Nat) (k s seq : Nat) (q : List HufEntry) :
    (queueLeaves (hufLeaves xs k s seq q)).Perm
      (queueLeaves q ++ (List.range' s k).filter (fun a => decide (a ∈ xs))) := by
  induction k generalizing s seq q with
  | zero => rw [hufLeaves, List.range'_zero, List.filter_nil, List.append_nil]
  | succ k ih =>
    rw [hufLeaves, List.range'_succ]
    split_ifs with hcount
    · rw [List.filter_cons_of_neg (by simpa using List.count_eq_zero.mp hcount)]
      exact ih _ _ _
    · rw [List.filter_cons_of_pos (by simpa using mt List.count_eq_zero.mpr hcount)]
      refine (ih _ _ _).trans (((queueLeaves_hufInsert _ _).append_right _).trans ?_)
      exact List.perm_middle.symm

theorem hufMerge_perm {fuel : Nat} (seq : Nat) {q : List HufEntry} (h : q.length ≤ fuel) :
    (rootLeaves (hufMerge fuel seq q)).Perm (queueLeaves q) := by
  induction fuel generalizing seq q with
  | zero =>
    obtain rfl := List.length_eq_zero_iff.mp (Nat.le_zero.mp h)
    exact .refl _
  | succ fuel ih =>
    match q, h with
    | [], _ => exact .refl _
    | [a], _ => simp [hufMerge, rootLeaves, queueLeaves]
    | a :: b :: q, h =>
      rw [hufMerge]
      refine (ih _ ?_).trans ((queueLeaves_hufInsert _ _).trans ?_)
      · rw [(hufInsert_perm _ q).length_eq]
        exact Nat.le_of_succ_le_succ h
      · rw [HufTree.leaves, List.append_assoc]
        exact .refl _

/-- The leaves of the tree are the symbols that occur. -/
theorem hufBuild_perm (xs : List Nat) :
    (rootLeaves (hufBuild xs)).Perm ((List.range 256).filter (fun a => decide (a ∈ xs))) := by
  rw [List.range_eq_range']
  exact (hufMerge_perm _ (Nat.le_refl _)).trans (hufLeaves_perm xs 256 0 0 [])

theorem mem_rootLeaves_hufBuild {xs : List Nat} {a : Nat} : a ∈ rootLeaves (hufBuild xs) ↔ a < 256 ∧ a ∈ xs := by
  rw [(hufBuild_perm xs).mem_iff, List.mem_filter, List.mem_range, decide_eq_true_eq]

theorem nodup_rootLeaves_hufBuild (xs : List Nat) : (rootLeaves (hufBuild xs)).Nodup :=
  (hufBuild_perm xs).nodup_iff.mpr (List.nodup_range.filter _)

theorem length_rootLeaves_hufBuild_le (xs : List Nat) : (rootLeaves (hufBuild xs)).length ≤ 256 := by
  rw [(hufBuild_perm xs).length_eq]
  exact (List.length_filter_le _ _).trans_eq List.length_range

/-! ### The codes of the leaves (R284, R285) -/

theorem putBits_double (code len : Nat) : putBits (2 * code) (len + 1) = putBits code len ++ [false] :=
  putBits_concat code len false

theorem putBits_double_add_one (code len : Nat) : putBits (2 * code + 1) (len + 1) = putBits code len ++ [true] :=
  putBits_concat code len true

/-- The bits of an entry (symbol, length, code). -/
def entryBits (e : Nat × Nat × Nat) : List Bool := putBits e.2.2 e.2.1

/-- Neither entry's bits begin the other's. -/
def PrefixFree (e f : Nat × Nat × Nat) : Prop := ¬ entryBits e <+: entryBits f ∧ ¬ entryBits f <+: entryBits e

theorem prefixFree_of_branch {p : List Bool} {b b' : Bool} (hb : b ≠ b') {e f : Nat × Nat × Nat}
    (he : p ++ [b] <+: entryBits e) (hf : p ++ [b'] <+: entryBits f) : PrefixFree e f := by
  have hcut : ∀ {l : List Bool} {c c' : Bool}, p ++ [c] <+: l → p ++ [c'] <+: l → c = c' := fun h h' => by
    have hpre := List.prefix_of_prefix_length_le h h' (by simp)
    simpa using hpre
  exact ⟨fun h => hb (hcut (he.trans h) hf), fun h => hb (hcut he (hf.trans h))⟩

theorem map_fst_hufTreeCodes (t : HufTree) (len code : Nat) : (hufTreeCodes t len code).map Prod.fst = t.leaves := by
  induction t generalizing len code with
  | leaf s => rfl
  | node left right ihl ihr => rw [hufTreeCodes, List.map_append, ihl, ihr, HufTree.leaves]

theorem HufTree.leaves_pos (t : HufTree) : 1 ≤ t.leaves.length := by
  induction t with
  | leaf s => exact Nat.le_refl 1
  | node left right ihl ihr => rw [HufTree.leaves, List.length_append]; omega

/-- Codes go on from the code of their root, fit their lengths, and are no longer than there are leaves. -/
theorem hufTreeCodes_bounds {t : HufTree} {len code : Nat} (hcode : code < 2 ^ len) :
    ∀ e ∈ hufTreeCodes t len code, putBits code len <+: entryBits e ∧ len ≤ e.2.1 ∧ e.2.1 < len + t.leaves.length
      ∧ e.2.2 < 2 ^ e.2.1 := by
  induction t generalizing len code with
  | leaf s =>
    intro e he
    rw [hufTreeCodes, List.mem_singleton] at he
    subst he
    exact ⟨List.prefix_rfl, Nat.le_refl _, Nat.lt_succ_self _, hcode⟩
  | node left right ihl ihr =>
    have hl := left.leaves_pos
    have hr := right.leaves_pos
    rw [hufTreeCodes, HufTree.leaves, List.length_append]
    refine List.forall_mem_append.mpr ⟨fun e he => ?_, fun e he => ?_⟩
    · obtain ⟨hpre, hlen, hlt, hfit⟩ := ihl (by rw [Nat.pow_succ]; omega) e he
      rw [putBits_double] at hpre
      exact ⟨(List.prefix_append _ _).trans hpre, by omega, by omega, hfit⟩
    · obtain ⟨hpre, hlen, hlt, hfit⟩ := ihr (by rw [Nat.pow_succ]; omega) e he
      rw [putBits_double_add_one] at hpre
      exact ⟨(List.prefix_append _ _).trans hpre, by omega, by omega, hfit⟩

theorem pairwise_hufTreeCodes {t : HufTree} {len code : Nat} (hcode : code < 2 ^ len) :
    (hufTreeCodes t len code).Pairwise PrefixFree := by
  induction t generalizing len code with
  | leaf s => exact List.pairwise_singleton _ _
  | node left right ihl ihr =>
    have hleft : 2 * code < 2 ^ (len + 1) := by rw [Nat.pow_succ]; omega
    have hright : 2 * code + 1 < 2 ^ (len + 1) := by rw [Nat.pow_succ]; omega
    refine List.pairwise_append.mpr ⟨ihl hleft, ihr hright, fun e he f hf => ?_⟩
    obtain ⟨hpre, -⟩ := hufTreeCodes_bounds hleft e he
    obtain ⟨hpre', -⟩ := hufTreeCodes_bounds hright f hf
    rw [putBits_double] at hpre
    rw [putBits_double_add_one] at hpre'
    exact prefixFree_of_branch (by decide) hpre hpre'

theorem map_fst_hufCodes (root : Option HufTree) : (hufCodes root).map Prod.fst = rootLeaves root := by
  match root with
  | none => rfl
  | some (.leaf s) => rfl
  | some (.node left right) => exact map_fst_hufTreeCodes _ 0 0

theorem hufCodes_bounds {root : Option HufTree} :
    ∀ e ∈ hufCodes root, 1 ≤ e.2.1 ∧ e.2.1 ≤ (rootLeaves root).length ∧ e.2.2 < 2 ^ e.2.1 := by
  match root with
  | none => exact nofun
  | some (.leaf s) =>
    intro e he
    rw [hufCodes, List.mem_singleton] at he
    subst he
    exact ⟨Nat.le_refl 1, Nat.le_refl 1, Nat.two_pow_pos 1⟩
  | some (.node left right) =>
    have hl := left.leaves_pos
    have hr := right.leaves_pos
    rw [hufCodes, hufTreeCodes]
    change ∀ e ∈ hufTreeCodes left 1 0 ++ hufTreeCodes right 1 1,
      1 ≤ e.2.1 ∧ e.2.1 ≤ (left.leaves ++ right.leaves).length ∧ e.2.2 < 2 ^ e.2.1
    rw [List.length_append]
    refine List.forall_mem_append.mpr ⟨fun e he => ?_, fun e he => ?_⟩
    · obtain ⟨-, hlen, hlt, hfit⟩ := hufTreeCodes_bounds (by decide) e he
      exact ⟨by omega, by omega, hfit⟩
    · obtain ⟨-, hlen, hlt, hfit⟩ := hufTreeCodes_bounds (by decide) e he
      exact ⟨by omega, by omega, hfit⟩

theorem pairwise_hufCodes (root : Option HufTree) : (hufCodes root).Pairwise PrefixFree := by
  match root with
  | none => exact .nil
  | some (.leaf s) => exact List.pairwise_singleton _ _
  | some (.node left right) => exact pairwise_hufTreeCodes (by decide)

/-! ### The code table (R281, R284) -/

/-- `(len[a], code[a])` of a symbol. -/
def hufCode (xs : List Nat) (a : Nat) : Nat × Nat := (hufTable (hufCodes (hufBuild xs))).getD a (0, 0)

@[simp] theorem length_hufTable (codes : List (Nat × Nat × Nat)) : (hufTable codes).length = 256 := by
  rw [hufTable, List.length_map, List.length_range]

theorem hufTable_eq_map (xs : List Nat) : hufTable (hufCodes (hufBuild xs)) = (List.range 256).map (hufCode xs) := by
  refine List.ext_getElem (by simp) fun i hi _ => ?_
  rw [List.getElem_map, List.getElem_range, hufCode, List.getD_eq_getElem _ _ hi]

theorem hufCode_of_lt {xs : List Nat} {a : Nat} (ha : a < 256) :
    hufCode xs a = ((hufCodes (hufBuild xs)).lookup a).getD (0, 0) := by
  rw [hufCode, hufTable, List.getD_eq_getElem?_getD, List.getElem?_map, List.getElem?_range ha, Option.map_some,
    Option.getD_some]

theorem hufCode_of_not_mem {xs : List Nat} {a : Nat} (ha : a ∉ xs) : hufCode xs a = (0, 0) := by
  by_cases hlt : a < 256
  · rw [hufCode_of_lt hlt]
    cases hlook : (hufCodes (hufBuild xs)).lookup a with
    | none => rfl
    | some p =>
      have hleaf := List.mem_map_of_mem (f := Prod.fst) (mem_of_lookup_eq_some hlook)
      rw [map_fst_hufCodes] at hleaf
      exact absurd (mem_rootLeaves_hufBuild.mp hleaf).2 ha
  · rw [hufCode, List.getD_eq_default _ _ (by rw [length_hufTable]; omega)]

theorem hufCode_mem {xs : List Nat} {a : Nat} (ha : a ∈ xs) (hlt : a < 256) :
    (a, hufCode xs a) ∈ hufCodes (hufBuild xs) := by
  have hleaf := mem_rootLeaves_hufBuild.mpr ⟨hlt, ha⟩
  rw [← map_fst_hufCodes] at hleaf
  obtain ⟨⟨b, p⟩, hmem, rfl⟩ := List.mem_map.mp hleaf
  have hkeys : ((hufCodes (hufBuild xs)).map Prod.fst).Nodup := by
    rw [map_fst_hufCodes]
    exact nodup_rootLeaves_hufBuild xs
  rwa [hufCode_of_lt hlt, lookup_eq_some_of_mem hkeys hmem, Option.getD_some]

theorem hufCode_bounds {xs : List Nat} {a : Nat} (ha : a ∈ xs) (hlt : a < 256) :
    1 ≤ (hufCode xs a).1 ∧ (hufCode xs a).1 ≤ 256 ∧ (hufCode xs a).2 < 2 ^ (hufCode xs a).1 := by
  obtain ⟨hpos, hle, hfit⟩ := hufCodes_bounds _ (hufCode_mem ha hlt)
  exact ⟨hpos, hle.trans (length_rootLeaves_hufBuild_le xs), hfit⟩

/-- No code begins another (R284). -/
theorem hufCode_prefixFree {xs : List Nat} {a b : Nat} (ha : a ∈ xs) (hb : b ∈ xs) (hlta : a < 256) (hltb : b < 256)
    (hne : a ≠ b) : ¬ putBits (hufCode xs a).2 (hufCode xs a).1 <+: putBits (hufCode xs b).2 (hufCode xs b).1 := by
  have hsymm : Std.Symm PrefixFree := ⟨fun _ _ h => ⟨h.2, h.1⟩⟩
  have hfree := (pairwise_hufCodes (hufBuild xs)).forall (hufCode_mem ha hlta) (hufCode_mem hb hltb)
    fun h => hne (Prod.ext_iff.mp h).1
  exact hfree.1

/-- The first bits of a run are a run. -/
theorem putBits_prefix {c l : Nat} {k : Nat} (hk : k ≤ l) : putBits (c / 2 ^ (l - k)) k <+: putBits c l := by
  refine List.prefix_iff_getElem?.mpr fun i hi => ?_
  have hik : i < k := by rwa [length_putBits] at hi
  rw [← List.getElem?_eq_getElem hi, getElem?_putBits hik, getElem?_putBits (by omega), Nat.testBit_div_two_pow,
    show k - 1 - i + (l - k) = l - 1 - i by omega]

/-- The only leaf of a lone symbol's tree has the one-bit code 0 (R285). -/
theorem hufCode_lone {xs : List Nat} {a : Nat} (ha : a ∈ xs) (hlt : a < 256) (hlone : ConstantBlock xs) :
    hufCode xs a = (1, 0) := by
  have hsymbols : ∀ b, b ∈ rootLeaves (hufBuild xs) ↔ b = a := fun b => by
    rw [mem_rootLeaves_hufBuild]
    exact ⟨fun h => hlone b h.2 a ha, fun h => h ▸ ⟨hlt, ha⟩⟩
  have hleaves : (rootLeaves (hufBuild xs)).Perm [a] :=
    (List.perm_ext_iff_of_nodup (nodup_rootLeaves_hufBuild xs) (List.nodup_singleton a)).mpr fun b => by
      rw [hsymbols, List.mem_singleton]
  have hmem := hufCode_mem ha hlt
  match hroot : hufBuild xs with
  | none =>
    rw [hroot] at hmem
    cases hmem
  | some (.leaf s) =>
    rw [hroot, hufCodes, List.mem_singleton] at hmem
    exact (Prod.ext_iff.mp hmem).2
  | some (.node left right) =>
    have hl := left.leaves_pos
    have hr := right.leaves_pos
    have hlen := hleaves.length_eq
    rw [hroot] at hlen
    change (left.leaves ++ right.leaves).length = 1 at hlen
    rw [List.length_append] at hlen
    omega

/-- Settles O50: the codes are the paths to the leaves of the tree. -/
theorem huffmanCodesArePrefixFree : Obligations.HuffmanCodesArePrefixFree := by
  unfold Obligations.HuffmanCodesArePrefixFree
  intro xs table hxs htable
  have hcode : ∀ a, table.getD a (0, 0) = hufCode xs a := fun a => by rw [htable, hufCode]
  simp only [hcode]
  refine ⟨fun a ha => ?_, fun a ha b hb hne hle hcut => ?_, fun a ha => hufCode_of_not_mem ha,
    fun a ha hlone => hufCode_lone ha (hxs a ha) hlone⟩
  · obtain ⟨hpos, -, hfit⟩ := hufCode_bounds ha (hxs a ha)
    exact ⟨hpos, hfit⟩
  · have hprefix := putBits_prefix (c := (hufCode xs b).2) hle
    rw [hcut] at hprefix
    exact hufCode_prefixFree ha hb (hxs a ha) (hxs b hb) hne hprefix

end Sys2Proof.Machine


/-! PROOFS. Huffman decoding (47_huffman.md R287 to R294, R300): the code table read slot by slot, greedy matching, and the
stream of the encoder read back. -/

namespace Sys2Proof.Machine

/-! ### Reading the code table (R291, R292) -/

/-- The lookup table holds the codes of the slots read so far. -/
structure HufTableOf (slots : List (Nat × Nat)) (table : HufLookup) : Prop where
  /-- A code is found where its slot has it. -/
  lookup : ∀ l c a, table.lookup (l, c) = some a ↔ 0 < l ∧ slots[a]? = some (l, c)
  /-- There are as many entries as codes. -/
  length : table.length = slots.countP (fun p => decide (0 < p.1))

theorem hufTableOf_nil : HufTableOf [] [] := ⟨fun _ _ _ => by simp, rfl⟩

theorem HufTableOf.lookup_eq_none {slots : List (Nat × Nat)} {table : HufLookup} (h : HufTableOf slots table) {l c : Nat}
    (hnot : 0 < l → (l, c) ∉ slots) : table.lookup (l, c) = none := by
  cases hlook : table.lookup (l, c) with
  | none => rfl
  | some a =>
    obtain ⟨hl, ha⟩ := (h.lookup l c a).mp hlook
    exact absurd (List.mem_of_getElem? ha) (hnot hl)

theorem HufTableOf.lookup_isSome {slots : List (Nat × Nat)} {table : HufLookup} (h : HufTableOf slots table) {l c : Nat}
    (hl : 0 < l) (hmem : (l, c) ∈ slots) : (table.lookup (l, c)).isSome = true := by
  obtain ⟨a, ha⟩ := List.mem_iff_getElem?.mp hmem
  rw [(h.lookup l c a).mpr ⟨hl, ha⟩]
  rfl

/-- One more slot. -/
theorem HufTableOf.concat {slots : List (Nat × Nat)} {table : HufLookup} (h : HufTableOf slots table) {l c : Nat}
    (hnew : 0 < l → (l, c) ∉ slots) :
    HufTableOf (slots ++ [(l, c)]) (if l = 0 then table else ((l, c), slots.length) :: table) := by
  refine ⟨fun l' c' a => ?_, ?_⟩
  · by_cases hsame : 0 < l ∧ (l', c') = (l, c)
    · obtain ⟨hl, heq⟩ := hsame
      obtain ⟨rfl, rfl⟩ := Prod.mk.inj heq
      rw [if_neg (Nat.ne_of_gt hl), List.lookup_cons_self]
      refine ⟨fun ha => ?_, fun ⟨_, ha⟩ => ?_⟩
      · obtain rfl := Option.some.inj ha
        exact ⟨hl, by simp⟩
      · obtain ha | ⟨rfl, -⟩ := getElem?_append_singleton ha
        · exact absurd (List.mem_of_getElem? ha) (hnew hl)
        · rfl
    · have hlook : (if l = 0 then table else ((l, c), slots.length) :: table).lookup (l', c') = table.lookup (l', c') := by
        split_ifs with hl
        · rfl
        · have hne : ((l', c') == (l, c)) = false := beq_eq_false_iff_ne.mpr fun heq => hsame ⟨Nat.pos_of_ne_zero hl, heq⟩
          rw [List.lookup_cons, hne]
      rw [hlook, h.lookup]
      refine and_congr_right fun hl' => ⟨fun ha => ?_, fun ha => ?_⟩
      · rwa [List.getElem?_append_left (lt_of_getElem?_eq_some ha)]
      · obtain ha | ⟨-, heq⟩ := getElem?_append_singleton ha
        · exact ha
        · obtain ⟨rfl, rfl⟩ := Prod.mk.inj heq
          exact absurd ⟨hl', rfl⟩ hsame
  · rw [List.countP_append, List.countP_singleton, ← h.length]
    split_ifs with hl hpos hpos
    · simp [hl] at hpos
    · rfl
    · rfl
    · simp at hpos; omega

section
variable {maxlen w k a : Nat} {rd rd' : BitReader} {table : HufLookup}

theorem hufReadSlots_trunc_length {e : Raised} (h : getBits w rd = .error e) :
    hufReadSlots maxlen w (k + 1) a rd table = .error e := bind_of_error h _

theorem hufReadSlots_codelen {l : Nat} (h : getBits w rd = .ok (l, rd')) (hl : maxlen < l) :
    hufReadSlots maxlen w (k + 1) a rd table = .error ⟨.eHufCodelen, l⟩ := by
  rw [hufReadSlots, pure_bind_ok h]
  simp only [check_bind, decide_eq_true hl, if_true]

theorem hufReadSlots_trunc_code {l : Nat} {e : Raised} (h : getBits w rd = .ok (l, rd')) (hl : l ≤ maxlen)
    (hcode : getBits l rd' = .error e) : hufReadSlots maxlen w (k + 1) a rd table = .error e := by
  rw [hufReadSlots, pure_bind_ok h]
  simp only [check_bind, decide_eq_false (Nat.not_lt.mpr hl), bind_of_error hcode]
  rfl

theorem hufReadSlots_twice {l c : Nat} {rd'' : BitReader} (h : getBits w rd = .ok (l, rd')) (hl : l ≤ maxlen) (hpos : 0 < l)
    (hcode : getBits l rd' = .ok (c, rd'')) (htwice : (table.lookup (l, c)).isSome = true) :
    hufReadSlots maxlen w (k + 1) a rd table = .error ⟨.eHufTable, 2⟩ := by
  rw [hufReadSlots, pure_bind_ok h]
  simp only [check_bind, decide_eq_false (Nat.not_lt.mpr hl), pure_bind_ok hcode, if_neg (Nat.ne_of_gt hpos), htwice,
    if_true]
  rfl

theorem hufReadSlots_good {l c : Nat} {rd'' : BitReader} (h : getBits w rd = .ok (l, rd')) (hl : l ≤ maxlen)
    (hcode : getBits l rd' = .ok (c, rd'')) (hnew : table.lookup (l, c) = none) :
    hufReadSlots maxlen w (k + 1) a rd table =
      hufReadSlots maxlen w k (a + 1) rd'' (if l = 0 then table else ((l, c), a) :: table) := by
  rw [hufReadSlots, pure_bind_ok h]
  simp only [check_bind, decide_eq_false (Nat.not_lt.mpr hl), pure_bind_ok hcode, hnew, Option.isSome_none,
    Bool.false_eq_true, if_false]
  split_ifs <;> rfl

end

theorem hufSlotBits_cons (w : Nat) (p : Nat × Nat) (slots : List (Nat × Nat)) :
    hufSlotBits w (p :: slots) = putBits p.1 w ++ (putBits p.2 p.1 ++ hufSlotBits w slots) := by
  rw [hufSlotBits, List.flatMap_cons, List.append_assoc, hufSlotBits]

/-- Good slots are read into the table. -/
theorem hufReadSlots_slots {maxlen w : Nat} {slots : List (Nat × Nat)} {table : HufLookup} (h : HufTableOf slots table)
    (more : List (Nat × Nat)) (hok : HufSlotsOk maxlen w (slots ++ more)) : ∃ table', HufTableOf (slots ++ more) table' ∧
      ∀ k pos tail, hufReadSlots maxlen w (more.length + k) slots.length { bits := hufSlotBits w more ++ tail, pos := pos }
        table = hufReadSlots maxlen w k (slots.length + more.length)
          { bits := tail, pos := pos + (hufSlotBits w more).length } table' := by
  induction more generalizing slots table with
  | nil => exact ⟨table, by simpa using h, fun k pos tail => by rw [List.length_nil, Nat.zero_add]; rfl⟩
  | cons p more ih =>
    obtain ⟨l, c⟩ := p
    have ⟨_, hfit, hnodup⟩ := hok
    obtain ⟨hlw, hlmax, hcl⟩ := hfit (l, c) (by simp)
    have hnew : 0 < l → (l, c) ∉ slots := fun hl hmem => by
      rw [List.filter_append, List.nodup_append] at hnodup
      obtain ⟨-, -, hdisjoint⟩ := hnodup
      exact hdisjoint (l, c) (List.mem_filter.mpr ⟨hmem, decide_eq_true hl⟩) (l, c)
        (List.mem_filter.mpr ⟨List.mem_cons_self, decide_eq_true hl⟩) rfl
    obtain ⟨table', htable', hrun⟩ := ih (h.concat hnew) (by simpa using hok)
    refine ⟨table', by simpa using htable', fun k pos tail => ?_⟩
    have hlen : (slots ++ [(l, c)]).length = slots.length + 1 := by simp
    rw [hlen] at hrun
    rw [hufSlotBits_cons, List.append_assoc, List.append_assoc, List.length_cons, Nat.add_right_comm,
      hufReadSlots_good (getBits_putBits hlw _ _) hlmax (getBits_putBits hcl _ _) (h.lookup_eq_none hnew), hrun,
      List.length_append, List.length_append, length_putBits, length_putBits]
    congr 1
    · omega
    · congr 1; omega

theorem hufReadTable_trunc_count {maxlen : Nat} {rd : BitReader} {e : Raised} (h : getBits 16 rd = .error e) :
    hufReadTable maxlen rd = .error e := bind_of_error h _

theorem hufReadTable_trunc_width {maxlen count : Nat} {rd rd' : BitReader} {e : Raised} (h : getBits 16 rd = .ok (count, rd'))
    (hw : getBits 16 rd' = .error e) : hufReadTable maxlen rd = .error e := by
  rw [hufReadTable, pure_bind_ok h]
  exact bind_of_error hw _

theorem hufReadTable_width {maxlen count w : Nat} {rd rd' rd'' : BitReader} (h : getBits 16 rd = .ok (count, rd'))
    (hw : getBits 16 rd' = .ok (w, rd'')) (hbad : w = 0 ∨ 16 < w) : hufReadTable maxlen rd = .error ⟨.eHufTable, 1⟩ := by
  have hcheck : (decide (w < 1) || decide (16 < w)) = true := by simpa using hbad
  rw [hufReadTable, pure_bind_ok h]
  simp only [pure_bind_ok hw, check_bind, hcheck, if_true]

/-- Past a good length field the slots decide, then the count. -/
theorem hufReadTable_slots {maxlen count w : Nat} {rd rd' rd'' : BitReader} (h : getBits 16 rd = .ok (count, rd'))
    (hw : getBits 16 rd' = .ok (w, rd'')) (hpos : 1 ≤ w) (hle : w ≤ 16) :
    (∀ e, hufReadSlots maxlen w 256 0 rd'' [] = .error e → hufReadTable maxlen rd = .error e)
    ∧ ∀ table rd₃, hufReadSlots maxlen w 256 0 rd'' [] = .ok (table, rd₃) →
      (table.length ≠ count → hufReadTable maxlen rd = .error ⟨.eHufTable, 3⟩)
      ∧ (table.length = count → hufReadTable maxlen rd = .ok (table, rd₃)) := by
  have hcheck : (decide (w < 1) || decide (16 < w)) = false := by simp; omega
  have htable : hufReadTable maxlen rd = (hufReadSlots maxlen w 256 0 rd'' [] >>= fun p =>
      check (!(p.1.length == count)) ⟨.eHufTable, 3⟩ >>= fun _ => pure (p.1, p.2)) := by
    rw [hufReadTable, pure_bind_ok h]
    simp only [pure_bind_ok hw, check_bind, hcheck]
    rfl
  rw [htable]
  refine ⟨fun e he => bind_of_error he _, fun table rd₃ hslots => ?_⟩
  rw [pure_bind_ok hslots, check_bind]
  refine ⟨fun hne => if_pos (by simpa using hne), fun heq => ?_⟩
  rw [if_neg (by simpa using heq)]
  rfl

/-! ### Greedy matching (R293) -/

section
variable {maxlen w : Nat} {slots : List (Nat × Nat)} {table : HufLookup}

/-- The bits of a symbol's code, some already read, lead to the symbol. -/
theorem hufMatch_code (htable : HufTableOf slots table) (hmax : ∀ p ∈ slots, p.1 ≤ maxlen ∧ p.2 < 2 ^ p.1) {a : Nat}
    (hmatched : HufMatched slots a) {l c : Nat} (hc : c < 2 ^ l) {bits : List Bool} (hbits : bits ≠ [])
    (hcode : putBits c l ++ bits = hufCodeBits slots a) (rest : List Bool) (pos : Nat) :
    hufMatch maxlen table (bits ++ rest) pos l c =
      (hufMatch maxlen table rest (pos + bits.length) 0 0).map (fun out => a :: out) := by
  obtain ⟨hpos, hnone⟩ := hmatched
  have hslot : slots[a]? = some (slots.getD a (0, 0)) := by
    cases hget : slots[a]? with
    | none => rw [List.getD_eq_getElem?_getD, hget] at hpos; exact absurd hpos (Nat.lt_irrefl 0)
    | some p => rw [List.getD_eq_getElem?_getD, hget]; rfl
  obtain ⟨hlen, hfit⟩ := hmax _ (List.mem_of_getElem? hslot)
  induction bits generalizing l c pos with
  | nil => exact absurd rfl hbits
  | cons b bits ih =>
    have hnext : 2 * c + b.toNat < 2 ^ (l + 1) := by
      have hb : b.toNat ≤ 1 := b.toNat_le
      rw [Nat.pow_succ]
      omega
    have hsplit : putBits (2 * c + b.toNat) (l + 1) ++ bits = hufCodeBits slots a := by
      rw [putBits_concat, List.append_assoc, ← hcode]
      rfl
    have hlength := congrArg List.length hsplit
    rw [List.length_append, length_putBits, hufCodeBits, length_putBits] at hlength
    rw [List.cons_append, hufMatch]
    by_cases hlast : bits = []
    · subst hlast
      rw [List.length_nil, Nat.add_zero] at hlength
      rw [List.append_nil, hufCodeBits, ← hlength] at hsplit
      rw [← hlength] at hfit
      have hvalue := putBits_inj hnext hfit hsplit
      have hlook : table.lookup (l + 1, 2 * c + b.toNat) = some a :=
        (htable.lookup _ _ _).mpr ⟨Nat.succ_pos l, by rw [hslot, hvalue, hlength]⟩
      rw [hlook, List.nil_append]
      simp only [List.length_singleton]
      cases hufMatch maxlen table rest (pos + 1) 0 0 <;> rfl
    · have hbits_pos := List.length_pos_iff.mpr hlast
      have hlook : table.lookup (l + 1, 2 * c + b.toNat) = none := htable.lookup_eq_none fun _ hmem =>
        hnone _ hmem (Nat.succ_pos l) (show l + 1 < _ by omega) ⟨bits, hsplit⟩
      rw [hlook]
      simp only
      rw [if_neg (by omega), ih hnext hlast hsplit, List.length_cons, Nat.add_assoc, Nat.add_comm 1]

/-- The symbols that greedy matching finds. -/
theorem hufMatch_symbols (htable : HufTableOf slots table) (hmax : ∀ p ∈ slots, p.1 ≤ maxlen ∧ p.2 < 2 ^ p.1)
    {syms : List Nat} (hsyms : ∀ a ∈ syms, HufMatched slots a) (rest : List Bool) (pos : Nat) :
    hufMatch maxlen table (syms.flatMap (hufCodeBits slots) ++ rest) pos 0 0 =
      (hufMatch maxlen table rest (pos + (syms.flatMap (hufCodeBits slots)).length) 0 0).map (fun out => syms ++ out) := by
  induction syms generalizing pos with
  | nil =>
    change _ = (hufMatch maxlen table rest pos 0 0).map (fun out => out)
    change hufMatch maxlen table rest pos 0 0 = _
    cases hufMatch maxlen table rest pos 0 0 <;> rfl
  | cons a syms ih =>
    obtain ⟨ha, hsyms⟩ := List.forall_mem_cons.mp hsyms
    have hne : hufCodeBits slots a ≠ [] := fun h => by
      have hlen := congrArg List.length h
      rw [hufCodeBits, length_putBits] at hlen
      exact absurd hlen (Nat.ne_of_gt ha.1)
    rw [List.flatMap_cons, List.append_assoc, hufMatch_code htable hmax ha (Nat.two_pow_pos 0) hne rfl, ih hsyms,
      List.length_append, Nat.add_assoc]
    cases hufMatch maxlen table rest _ 0 0 <;> rfl

/-- Bits that no code begins, some already read. -/
theorem hufMatch_noMatch (htable : HufTableOf slots table) {l c : Nat} (hl : l = 0 ∨ l < maxlen) {bits : List Bool}
    (hnone : HufNoMatch slots (putBits c l ++ bits)) (hne : putBits c l ++ bits ≠ []) (pos : Nat) :
    hufMatch maxlen table bits pos l c = if l + bits.length < maxlen then .error ⟨.eStreamTrunc, pos - l⟩
      else .error ⟨.eHufNomatch, pos - l⟩ := by
  induction bits generalizing l c pos with
  | nil =>
    have hl0 : l ≠ 0 := fun h => by subst h; exact hne rfl
    rw [hufMatch, if_neg hl0, List.length_nil, Nat.add_zero, if_pos (hl.resolve_left hl0)]
  | cons b bits ih =>
    have hsplit : putBits c l ++ b :: bits = putBits (2 * c + b.toNat) (l + 1) ++ bits := by
      rw [putBits_concat, List.append_assoc]
      rfl
    rw [hsplit] at hnone
    have hlook : table.lookup (l + 1, 2 * c + b.toNat) = none := htable.lookup_eq_none fun _ hmem =>
      hnone _ hmem (Nat.succ_pos l) (List.prefix_append _ _)
    rw [hufMatch, hlook]
    simp only
    rw [List.length_cons]
    split_ifs with hend hshort hshort
    · omega
    · rw [Nat.add_sub_add_right]
    · rw [ih (.inr (by omega)) hnone (putBits_append_ne_nil (Nat.succ_pos l) _ _), if_pos (by omega), Nat.add_sub_add_right]
    · rw [ih (.inr (by omega)) hnone (putBits_append_ne_nil (Nat.succ_pos l) _ _), if_neg (by omega), Nat.add_sub_add_right]

end

/-! ### Decoding (R294) -/

section
variable {maxlen pad : Nat} {bytes : List Byte}

theorem hufDecode_padb (h : 7 < pad ∨ 8 * bytes.length < pad) : hufDecode maxlen bytes pad = .error ⟨.ePadb, pad⟩ :=
  bind_of_error (newReader_error h) _

theorem hufDecode_of_table_error (hpad : pad ≤ 7) (hle : pad ≤ 8 * bytes.length) {e : Raised}
    (h : hufReadTable maxlen { bits := streamBits bytes pad, pos := 0 } = .error e) :
    hufDecode maxlen bytes pad = .error e := by
  rw [hufDecode, pure_bind_ok (newReader_ok hpad hle)]
  exact bind_of_error h _

theorem hufDecode_of_table_ok (hpad : pad ≤ 7) (hle : pad ≤ 8 * bytes.length) {table : HufLookup} {rd : BitReader}
    (h : hufReadTable maxlen { bits := streamBits bytes pad, pos := 0 } = .ok (table, rd)) :
    hufDecode maxlen bytes pad = (hufMatch maxlen table rd.bits rd.pos 0 0).map (fun out => out.map (BitVec.ofNat 8)) := by
  rw [hufDecode, pure_bind_ok (newReader_ok hpad hle), pure_bind_ok h]
  change (hufMatch maxlen table rd.bits rd.pos 0 0 >>= fun out => pure (out.map (BitVec.ofNat 8))) = _
  cases hufMatch maxlen table rd.bits rd.pos 0 0 <;> rfl

/-- A stream cut short in its head. -/
theorem hufDecode_head_trunc (hpad : pad ≤ 7) (hle : pad ≤ 8 * bytes.length) (hshort : (streamBits bytes pad).length < 32) :
    hufDecode maxlen bytes pad =
      .error ⟨.eStreamTrunc, if (streamBits bytes pad).length < 16 then 0 else 16⟩ := by
  refine hufDecode_of_table_error hpad hle ?_
  split_ifs with hcount
  · exact hufReadTable_trunc_count (getBits_eq_error hcount)
  · obtain ⟨v, hv, hbits⟩ := exists_eq_putBits ((streamBits bytes pad).take 16)
    rw [List.length_take, Nat.min_eq_left (by omega)] at hv hbits
    have hget := getBits_putBits hv 0 ((streamBits bytes pad).drop 16)
    rw [← hbits, List.take_append_drop] at hget
    exact hufReadTable_trunc_width hget (getBits_eq_error (by rw [List.length_drop]; omega))

variable {count w : Nat} (hpad : pad ≤ 7) (hle : pad ≤ 8 * bytes.length) (hcount : count < 2 ^ 16)
include hpad hle hcount

/-- A length field that is not 1 to 16. -/
theorem hufDecode_width (hw : w < 2 ^ 16) {tail : List Bool}
    (hbits : streamBits bytes pad = putBits count 16 ++ putBits w 16 ++ tail) (hbad : w = 0 ∨ 16 < w) :
    hufDecode maxlen bytes pad = .error ⟨.eHufTable, 1⟩ := by
  rw [List.append_assoc] at hbits
  have hget := getBits_putBits hcount 0 (putBits w 16 ++ tail)
  rw [← hbits] at hget
  exact hufDecode_of_table_error hpad hle (hufReadTable_width hget (getBits_putBits hw _ tail) hbad)

variable (hpos : 1 ≤ w) (hle16 : w ≤ 16) {slots : List (Nat × Nat)} (hok : HufSlotsOk maxlen w slots) {tail : List Bool}
  (hbits : streamBits bytes pad = putBits count 16 ++ putBits w 16 ++ hufSlotBits w slots ++ tail)
include hpos hle16 hok hbits

/-- After good slots: what reading the rest raises; and after the last slot the count, then matching. -/
theorem hufDecode_slots : ∃ table, HufTableOf slots table
    ∧ (∀ e, hufReadSlots maxlen w (256 - slots.length) slots.length
        { bits := tail, pos := 32 + (hufSlotBits w slots).length } table = .error e →
        hufDecode maxlen bytes pad = .error e)
    ∧ (slots.length = 256 → (slots.countP (fun p => decide (0 < p.1)) ≠ count →
        hufDecode maxlen bytes pad = .error ⟨.eHufTable, 3⟩)
      ∧ (slots.countP (fun p => decide (0 < p.1)) = count → hufDecode maxlen bytes pad =
        (hufMatch maxlen table tail (32 + (hufSlotBits w slots).length) 0 0).map (fun out => out.map (BitVec.ofNat 8)))) := by
  obtain ⟨table, htable, hrun⟩ := hufReadSlots_slots hufTableOf_nil slots hok
  obtain ⟨hcount256, -, -⟩ := hok
  have hrun := hrun (256 - slots.length) 32 tail
  rw [List.length_nil, Nat.zero_add, Nat.add_sub_cancel' hcount256] at hrun
  rw [List.append_assoc, List.append_assoc] at hbits
  have hget := getBits_putBits hcount 0 (putBits w 16 ++ (hufSlotBits w slots ++ tail))
  rw [← hbits] at hget
  have hw : w < 2 ^ 16 := by omega
  obtain ⟨herror, htables⟩ := hufReadTable_slots (maxlen := maxlen) hget (getBits_putBits hw _ _) hpos hle16
  rw [hrun] at herror htables
  refine ⟨table, htable, fun e he => hufDecode_of_table_error hpad hle (herror e he), fun hall => ?_⟩
  rw [hall] at htables
  obtain ⟨hbad, hgood⟩ := htables _ _ rfl
  rw [htable.length] at hbad hgood
  exact ⟨fun hne => hufDecode_of_table_error hpad hle (hbad hne), fun heq => hufDecode_of_table_ok hpad hle (hgood heq)⟩

theorem hufDecode_slot_faults {pos : Nat} (hat : pos = 32 + (hufSlotBits w slots).length) (hmore : slots.length < 256) :
    (tail.length < w → hufDecode maxlen bytes pad = .error ⟨.eStreamTrunc, pos⟩)
    ∧ ∀ l rest, l < 2 ^ w → tail = putBits l w ++ rest →
      (maxlen < l → hufDecode maxlen bytes pad = .error ⟨.eHufCodelen, l⟩)
      ∧ (l ≤ maxlen → rest.length < l → hufDecode maxlen bytes pad = .error ⟨.eStreamTrunc, pos + w⟩)
      ∧ (∀ c, l ≤ maxlen → 0 < l → c < 2 ^ l → putBits c l <+: rest → (l, c) ∈ slots →
        hufDecode maxlen bytes pad = .error ⟨.eHufTable, 2⟩) := by
  obtain ⟨table, htable, hraises, -⟩ := hufDecode_slots hpad hle hcount hpos hle16 hok hbits
  obtain ⟨k, hk⟩ := Nat.exists_eq_succ_of_ne_zero (show 256 - slots.length ≠ 0 by omega)
  rw [hk, ← hat] at hraises
  refine ⟨fun hshort => hraises _ (hufReadSlots_trunc_length (getBits_eq_error hshort)), fun l rest hl htail => ?_⟩
  subst htail
  have hget := getBits_putBits hl pos rest
  refine ⟨fun hlong => hraises _ (hufReadSlots_codelen hget hlong),
    fun hlmax hshort => hraises _ (hufReadSlots_trunc_code hget hlmax (getBits_eq_error hshort)),
    fun c hlmax hlpos hc hcode hmem => ?_⟩
  obtain ⟨rest, rfl⟩ := hcode
  exact hraises _ (hufReadSlots_twice hget hlmax hlpos (getBits_putBits hc _ _) (htable.lookup_isSome hlpos hmem))

theorem hufDecode_payload {pos : Nat} (hat : pos = 32 + (hufSlotBits w slots).length) {syms : List Nat} {rest : List Bool}
    (hall : slots.length = 256) (hcodes : slots.countP (fun p => decide (0 < p.1)) = count)
    (htail : tail = syms.flatMap (hufCodeBits slots) ++ rest) (hsyms : ∀ a ∈ syms, HufMatched slots a)
    (hnone : HufNoMatch slots rest) :
    (rest = [] → hufDecode maxlen bytes pad = .ok (syms.map (BitVec.ofNat 8)))
    ∧ (rest ≠ [] → rest.length < maxlen → hufDecode maxlen bytes pad =
      .error ⟨.eStreamTrunc, pos + (syms.flatMap (hufCodeBits slots)).length⟩)
    ∧ (rest ≠ [] → maxlen ≤ rest.length → hufDecode maxlen bytes pad =
      .error ⟨.eHufNomatch, pos + (syms.flatMap (hufCodeBits slots)).length⟩) := by
  obtain ⟨table, htable, -, hpayload⟩ := hufDecode_slots hpad hle hcount hpos hle16 hok hbits
  have hdecode := (hpayload hall).2 hcodes
  have hmax : ∀ p ∈ slots, p.1 ≤ maxlen ∧ p.2 < 2 ^ p.1 := fun p hp => (hok.2.1 p hp).2
  rw [htail, ← hat, hufMatch_symbols htable hmax hsyms] at hdecode
  have hstop : rest ≠ [] → _ := fun hne => hufMatch_noMatch (maxlen := maxlen) (c := 0) htable (.inl rfl) hnone hne
    (pos + (syms.flatMap (hufCodeBits slots)).length)
  rw [hdecode]
  refine ⟨fun hend => ?_, fun hne hshort => ?_, fun hne hlong => ?_⟩
  · subst hend
    rw [hufMatch, if_pos rfl]
    simp [Except.map]
  · rw [hstop hne, if_pos (by omega)]
    rfl
  · rw [hstop hne, if_neg (by omega)]
    rfl

end

/-! ### The encoder's stream (R286 to R290) -/

/-- The code table of an input. -/
def hufTableFor (xs : List Nat) : List (Nat × Nat) := hufTable (hufCodes (hufBuild xs))

/-- The bits the encoder writes: the head, the slots, the codes of the input. -/
def hufStream (table : List (Nat × Nat)) (xs : List Nat) : List Bool :=
  putBits (hufCount table) 16 ++ putBits (hufWidth table) 16 ++ hufSlotBits (hufWidth table) table
    ++ xs.flatMap (hufCodeBits table)

theorem hufCodeBits_eq (slots : List (Nat × Nat)) :
    hufCodeBits slots = fun a => putBits (slots.getD a (0, 0)).2 (slots.getD a (0, 0)).1 := rfl

theorem runBits_huf (table : List (Nat × Nat)) (xs : List Nat) :
    runBits (hufTableRuns table ++ hufPayloadRuns table xs) = hufStream table xs := by
  simp only [runBits, hufTableRuns, hufPayloadRuns, hufStream, hufSlotBits, hufCodeBits_eq, List.flatMap_append,
    List.flatMap_cons, List.flatMap_nil, List.flatMap_assoc, List.flatMap_map, List.cons_append, List.append_assoc,
    List.append_nil]

theorem hufEncode_error {maxlen : Nat} {bytes : List Byte} (h : maxlen < hufMaxLen (hufTableFor (bytes.map BitVec.toNat))) :
    hufEncode maxlen bytes = .error ⟨.eHufCodelen, hufMaxLen (hufTableFor (bytes.map BitVec.toNat))⟩ := by
  simp only [hufTableFor] at h ⊢
  simp only [hufEncode, if_pos h]

theorem hufEncode_ok {maxlen : Nat} {bytes : List Byte} (h : hufMaxLen (hufTableFor (bytes.map BitVec.toNat)) ≤ maxlen) :
    hufEncode maxlen bytes =
      .ok (finishBits (hufStream (hufTableFor (bytes.map BitVec.toNat)) (bytes.map BitVec.toNat))) := by
  rw [← runBits_huf]
  simp only [hufTableFor] at h ⊢
  simp only [hufEncode, if_neg (Nat.not_lt.mpr h)]

theorem length_hufSlotBits (w : Nat) (slots : List (Nat × Nat)) :
    (hufSlotBits w slots).length = slots.length * w + (slots.map Prod.fst).sum := by
  induction slots with
  | nil => rw [List.length_nil, Nat.zero_mul]; rfl
  | cons p slots ih =>
    rw [hufSlotBits_cons, List.length_append, List.length_append, length_putBits, length_putBits, ih, List.length_cons,
      List.map_cons, List.sum_cons, Nat.succ_mul]
    omega

theorem length_hufStream (xs : List Nat) : (hufStream (hufTableFor xs) xs).length =
    32 + 256 * hufWidth (hufTableFor xs) + ((hufTableFor xs).map Prod.fst).sum
      + (xs.map (fun b => ((hufTableFor xs).getD b (0, 0)).1)).sum := by
  simp only [hufStream, List.length_append, length_putBits, length_hufSlotBits, List.length_flatMap, hufCodeBits]
  rw [show (hufTableFor xs).length = 256 from length_hufTable _]
  omega

theorem lt_two_pow_bitlen (n : Nat) : n < 2 ^ bitlen n := by
  rw [bitlen]
  split_ifs with hzero
  · subst hzero
    decide
  · exact Nat.lt_log2_self

section
variable {xs : List Nat} (hxs : ∀ x ∈ xs, x < 256)
include hxs

theorem hufCode_fits (a : Nat) : (hufCode xs a).1 ≤ 256 ∧ (hufCode xs a).2 < 2 ^ (hufCode xs a).1 := by
  by_cases ha : a ∈ xs
  · exact (hufCode_bounds ha (hxs a ha)).2
  · rw [hufCode_of_not_mem ha]
    decide

theorem hufMaxLen_le : hufMaxLen (hufTableFor xs) ≤ 256 := by
  rw [hufMaxLen, hufTableFor, hufTable_eq_map, List.map_map]
  obtain ⟨-, -, heq | hmem⟩ := le_foldl_max ((List.range 256).map (Prod.fst ∘ hufCode xs)) 0
  · rw [heq]
    exact Nat.zero_le _
  · obtain ⟨a, -, ha⟩ := List.mem_map.mp hmem
    rw [← ha]
    exact (hufCode_fits hxs a).1

theorem hufWidth_bounds : 1 ≤ hufWidth (hufTableFor xs) ∧ hufWidth (hufTableFor xs) ≤ 16 := by
  have hle := hufMaxLen_le hxs
  refine ⟨Nat.le_max_left _ _, Nat.max_le.mpr ⟨by decide, ?_⟩⟩
  rw [bitlen]
  split_ifs with hzero
  · exact Nat.zero_le _
  · exact Nat.succ_le_of_lt ((Nat.log2_lt hzero).mpr (by omega))

/-- The encoder's slots hold nothing that reading reports. -/
theorem hufSlotsOk_hufTableFor {maxlen : Nat} (hmax : hufMaxLen (hufTableFor xs) ≤ maxlen) :
    HufSlotsOk maxlen (hufWidth (hufTableFor xs)) (hufTableFor xs) := by
  refine ⟨Nat.le_of_eq (length_hufTable _), fun p hp => ?_, ?_⟩
  · have hle : p.1 ≤ hufMaxLen (hufTableFor xs) := (le_foldl_max _ 0).2.1 _ (List.mem_map_of_mem hp)
    have hlt := lt_two_pow_bitlen (hufMaxLen (hufTableFor xs))
    have hpow := Nat.pow_le_pow_right (n := 2) (by decide) (Nat.le_max_right 1 (bitlen (hufMaxLen (hufTableFor xs))))
    rw [hufTableFor, hufTable_eq_map] at hp
    obtain ⟨a, -, rfl⟩ := List.mem_map.mp hp
    exact ⟨(hle.trans_lt hlt).trans_le hpow, hle.trans hmax, (hufCode_fits hxs a).2⟩
  · rw [hufTableFor, hufTable_eq_map, List.filter_map]
    refine List.Nodup.map_on (fun a ha b hb heq => ?_) (List.nodup_range.filter _)
    have hoccurs : ∀ c, 0 < (hufCode xs c).1 → c ∈ xs := fun c hc => by
      by_contra hnot
      rw [hufCode_of_not_mem hnot] at hc
      exact Nat.lt_irrefl 0 hc
    have ha := hoccurs a (by simpa using (List.mem_filter.mp ha).2)
    have hb := hoccurs b (by simpa using (List.mem_filter.mp hb).2)
    by_contra hne
    exact hufCode_prefixFree ha hb (hxs a ha) (hxs b hb) hne (heq ▸ List.prefix_rfl)

/-- Greedy matching reaches every symbol of the input. -/
theorem hufMatched_of_mem {a : Nat} (ha : a ∈ xs) : HufMatched (hufTableFor xs) a := by
  refine ⟨(hufCode_bounds ha (hxs a ha)).1, fun p hp hpos hlt => ?_⟩
  rw [hufTableFor, hufTable_eq_map] at hp
  obtain ⟨b, -, rfl⟩ := List.mem_map.mp hp
  have hb : b ∈ xs := by
    by_contra hnot
    rw [hufCode_of_not_mem hnot] at hpos
    exact Nat.lt_irrefl 0 hpos
  exact hufCode_prefixFree hb ha (hxs b hb) (hxs a ha) fun h => by subst h; exact Nat.lt_irrefl _ hlt

end

theorem hufNoMatch_nil (slots : List (Nat × Nat)) : HufNoMatch slots [] := fun p _ hpos hprefix => by
  have hlen := hprefix.length_le
  rw [length_putBits, List.length_nil] at hlen
  omega

theorem map_toNat_lt (bytes : List Byte) : ∀ x ∈ bytes.map BitVec.toNat, x < 256 := fun x hx => by
  obtain ⟨b, -, rfl⟩ := List.mem_map.mp hx
  exact b.isLt

/-- Settles O49: the encoder's table is read back, and its codes lead to the symbols. -/
theorem huffmanRoundTrip : Obligations.HuffmanRoundTrip := by
  unfold Obligations.HuffmanRoundTrip
  intro maxlen pad xs out hencode
  have hxs := map_toNat_lt xs
  by_cases hmax : hufMaxLen (hufTableFor (xs.map BitVec.toNat)) ≤ maxlen
  · rw [hufEncode_ok hmax] at hencode
    have hout := Except.ok.inj hencode
    have hbits := streamBits_finishBits (hufStream (hufTableFor (xs.map BitVec.toNat)) (xs.map BitVec.toNat))
    have hlen := length_finishBits (hufStream (hufTableFor (xs.map BitVec.toNat)) (xs.map BitVec.toNat))
    have hpad : (finishBits (hufStream (hufTableFor (xs.map BitVec.toNat)) (xs.map BitVec.toNat))).2 ≤ 7 := padCount_le _
    rw [hout] at hbits hlen hpad
    obtain ⟨hpos, hle16⟩ := hufWidth_bounds hxs
    have hall : (hufTableFor (xs.map BitVec.toNat)).length = 256 := length_hufTable _
    have hcount : hufCount (hufTableFor (xs.map BitVec.toNat)) < 2 ^ 16 :=
      (List.countP_le_length.trans_eq hall).trans_lt (by decide)
    obtain ⟨hdone, -⟩ := hufDecode_payload hpad (by omega) hcount hpos hle16 (hufSlotsOk_hufTableFor hxs hmax) hbits rfl
      hall rfl (List.append_nil _).symm (fun a ha => hufMatched_of_mem hxs ha) (hufNoMatch_nil _)
    rw [hdone rfl, map_ofNat_map_toNat]
  · rw [hufEncode_error (Nat.lt_of_not_le hmax)] at hencode
    cases hencode

/-! ### The commands -/

/-- Settles O48. -/
theorem huffmanCommands : Obligations.HuffmanCommands := by
  unfold Obligations.HuffmanCommands
  refine ⟨fun s xs table hready hxs htable => ?_, fun s hready => ?_, fun maxlen pad bytes => ⟨hufDecode_padb,
    hufDecode_head_trunc, fun count w tail hpad hle hcount hw hbits hbad => hufDecode_width hpad hle hcount hw hbits hbad,
    fun count w pos slots tail hpad hle hcount hpos hle16 hok hbits hat => ⟨fun hmore => ?_, fun l rest hmore => ?_,
      fun hall hne => ?_, fun syms rest => hufDecode_payload hpad hle hcount hpos hle16 hok hbits hat⟩⟩⟩
  · have hchecks := State.byteChecks_ok.mpr hready
    have hexec : exec .hufe s = s.finishBulk (s.byteChecks s.len.toNat) (fun _ => do
        let c ← hufEncode s.cfg.hufMaxlen xs
        return { plainResult c.1 with padb := some c.2 }) := by rw [hxs]; rfl
    have htable : table = hufTableFor (xs.map BitVec.toNat) := htable
    subst htable
    refine ⟨fun hlong => State.raises hexec hchecks (bind_of_error (hufEncode_error hlong) _), fun hfits => ?_⟩
    have hencode := hufEncode_ok hfits
    have hsize := length_finishBits (hufStream (hufTableFor (xs.map BitVec.toNat)) (xs.map BitVec.toNat))
    rw [length_hufStream, List.map_map] at hsize
    exact ⟨_, _, hencode, hsize, State.deliversOrCap hexec hchecks (pure_bind_ok hencode _)⟩
  · have hlen : s.inBytes.length = s.len.toNat := s.length_readBytes _ _
    obtain ⟨hraises, hdelivers⟩ := State.decodes (s := s) (o := exec .hufd s)
      (dec := hufDecode s.cfg.hufMaxlen s.inBytes s.padb.toNat) rfl (State.byteChecks_ok.mpr hready)
    exact ⟨fun hpad => hraises _ (hufDecode_padb (hlen ▸ hpad)), hraises,
      fun xs hxs => hdelivers xs (hxs.elim (huffmanRoundTrip _ _ xs _) id)⟩
  · exact (hufDecode_slot_faults hpad hle hcount hpos hle16 hok hbits hat hmore).1
  · exact (hufDecode_slot_faults hpad hle hcount hpos hle16 hok hbits hat hmore).2 l rest
  · obtain ⟨table, -, -, hend⟩ := hufDecode_slots hpad hle hcount hpos hle16 hok hbits
    exact (hend hall).1 hne

end Sys2Proof.Machine


/-! PROOFS. The container header (49_block_container.md R340 to R349): its fields checked in file order, its bytes packed and
unpacked. -/

namespace Sys2Proof.Machine

/-! ### The fields in file order (R343) -/

/-- Whether field `i` of a header is illegal. -/
def hdrFieldBad (ndims k dtype sfc comp npad : Nat) : Nat → Bool
  | 0 => !(decide (1 ≤ ndims) && decide (ndims ≤ 255))
  | 1 => !(decide (1 ≤ k) && decide (k ≤ 255))
  | 2 => !(dtype == 1 || dtype == 2 || dtype == 4)
  | 3 => !decide (sfc ≤ 4)
  | 4 => !decide (comp ≤ 9)
  | _ => !decide (npad ≤ 7)

/-- The checks of `n` fields from field `i` on. -/
def checkFields (bad : Nat → Bool) : Nat → Nat → Except Raised Unit
  | _, 0 => .ok ()
  | i, n + 1 => check (bad i) ⟨.eHdrField, i⟩ >>= fun _ => checkFields bad (i + 1) n

theorem hdrFieldBad_eq_false {ndims k dtype sfc comp npad i : Nat} :
    hdrFieldBad ndims k dtype sfc comp npad i = false ↔ HdrFieldLegal ndims k dtype sfc comp npad i := by
  match i with
  | 0 | 1 | 3 | 4 | _ + 5 => simp [hdrFieldBad, HdrFieldLegal]
  | 2 => simp [hdrFieldBad, HdrFieldLegal, or_iff_not_imp_left]

theorem checkFields_ok {bad : Nat → Bool} {i n : Nat} (h : ∀ j, i ≤ j → j < i + n → bad j = false) :
    checkFields bad i n = .ok () := by
  induction n generalizing i with
  | zero => rfl
  | succ n ih =>
    have hi : bad i = false := h i (Nat.le_refl i) (by omega)
    rw [checkFields, check_bind, hi, if_neg (by decide), ih fun j hij hj => h j (by omega) (by omega)]

/-- The first illegal field is reported. -/
theorem checkFields_error {bad : Nat → Bool} {i j n : Nat} (hij : i ≤ j) (hjn : j < i + n) (hj : bad j = true)
    (hfirst : ∀ m, i ≤ m → m < j → bad m = false) : checkFields bad i n = .error ⟨.eHdrField, j⟩ := by
  induction n generalizing i with
  | zero => omega
  | succ n ih =>
    rw [checkFields, check_bind]
    obtain rfl | hlt := Nat.eq_or_lt_of_le hij
    · exact if_pos hj
    · rw [hfirst i (Nat.le_refl i) hlt, if_neg (by decide)]
      exact ih hlt (by omega) fun m him hm => hfirst m (by omega) hm

theorem eq_false_of_checkFields_ok {bad : Nat → Bool} {i n : Nat} (h : checkFields bad i n = .ok ()) :
    ∀ j, i ≤ j → j < i + n → bad j = false := by
  intro j hij hj
  by_contra hbad
  have hex : ∃ m, i ≤ m ∧ bad m = true := ⟨j, hij, Bool.eq_true_of_not_eq_false hbad⟩
  have hle : Nat.find hex ≤ j := Nat.find_min' hex ⟨hij, Bool.eq_true_of_not_eq_false hbad⟩
  obtain ⟨hfrom, hfind⟩ := Nat.find_spec hex
  rw [checkFields_error (bad := bad) hfrom (by omega) hfind fun m him hm =>
    Bool.eq_false_of_not_eq_true fun hm' => Nat.find_min hex hm ⟨him, hm'⟩] at h
  cases h

theorem bind_ok_unit (x : Except Raised Unit) : (x >>= fun _ => Except.ok ()) = x := by
  cases x <;> rfl

theorem hdrFieldChecks_eq (ndims k dtype sfc comp npad : Nat) :
    hdrFieldChecks ndims k dtype sfc comp = checkFields (hdrFieldBad ndims k dtype sfc comp npad) 0 5 := by
  simp only [checkFields, bind_ok_unit]
  rfl

/-- Six fields are the five and the padding count. -/
theorem checkFields_six (ndims k dtype sfc comp npad : Nat) :
    (hdrFieldChecks ndims k dtype sfc comp >>= fun _ => hdrPadCheck npad) =
      checkFields (hdrFieldBad ndims k dtype sfc comp npad) 0 6 := by
  rw [hdrFieldChecks_eq ndims k dtype sfc comp npad]
  simp only [checkFields, bind_ok_unit, bind_assoc]
  rfl

theorem hdrPads_iff {comp : Nat} : hdrPads comp = true ↔ InPaddingSet comp := by
  simp [hdrPads, InPaddingSet, or_assoc]

/-! ### Bytes and words -/

theorem toNat_append_eq {m n : Nat} (x : BitVec m) (y : BitVec n) : (x ++ y).toNat = x.toNat * 2 ^ n + y.toNat := by
  rw [BitVec.toNat_append, ← Nat.shiftLeft_add_eq_or_of_lt y.isLt, Nat.shiftLeft_eq]

theorem toNat_extractLsb'_eq (h : Word) (k n : Nat) : (h.extractLsb' k n).toNat = h.toNat / 2 ^ k % 2 ^ n := by
  rw [BitVec.extractLsb'_toNat, Nat.shiftRight_eq_div_pow]

/-- The byte of `BT` and `SFC`. -/
theorem hdrBt_append_hdrSfc (h : Word) : (hdrBt h ++ hdrSfc h : BitVec (1 + 7)) = h.extractLsb' 24 8 := by
  refine BitVec.eq_of_toNat_eq ?_
  rw [toNat_append_eq, hdrBt, hdrSfc, toNat_extractLsb'_eq, toNat_extractLsb'_eq, toNat_extractLsb'_eq]
  omega

theorem hdrBytes_eq (h : Word) : hdrBytes h = [0x53, 0x46, 0x43, 0x43, h.extractLsb' 0 8, h.extractLsb' 8 8,
    h.extractLsb' 16 8, h.extractLsb' 24 8, h.extractLsb' 32 8]
      ++ (if (h.extractLsb' 32 8).toNat ∈ [2, 5, 6, 8] then [h.extractLsb' 40 8] else []) := by
  have hpads : hdrPads (hdrComp h).toNat = true ↔ (h.extractLsb' 32 8).toNat ∈ [2, 5, 6, 8] := by
    simp [hdrPads, hdrComp, or_assoc]
  rw [hdrBytes, hdrBt_append_hdrSfc]
  simp only [hpads]
  rfl

theorem hdrOfBytes_eq (b : List Byte) (npad : Byte) : hdrOfBytes b npad =
    BitVec.ofNat 64 (leValue [byteAt b 4, byteAt b 5, byteAt b 6, byteAt b 7, byteAt b 8, npad]) := by
  refine BitVec.eq_of_toNat_eq ?_
  have h4 := (byteAt b 4).isLt
  have h5 := (byteAt b 5).isLt
  have h6 := (byteAt b 6).isLt
  have h7 := (byteAt b 7).isLt
  have h8 := (byteAt b 8).isLt
  have h9 := npad.isLt
  simp only [hdrOfBytes, toNat_append_eq, leValue, BitVec.toNat_ofNat]
  omega

/-! ### Packing (R344) -/

/-- The fields that the header of `h` checks. -/
def hdrFieldCount (h : Word) : Nat := if hdrPads (hdrComp h).toNat then 6 else 5

/-- Whether field `i` of the header `h` is illegal. -/
def hdrBad (h : Word) : Nat → Bool :=
  hdrFieldBad (hdrNdims h).toNat (hdrK h).toNat (hdrDtype h).toNat (hdrSfc h).toNat (hdrComp h).toNat (hdrNpad h).toNat

theorem exec_hdrp (s : State) : exec .hdrp s = s.finishBulk s.checkOut (fun _ =>
    checkFields (hdrBad s.hdr) 0 (hdrFieldCount s.hdr) >>= fun _ => pure (plainResult (hdrBytes s.hdr))) := by
  have hexec : exec .hdrp s = execHdrp s := rfl
  rw [hexec, execHdrp, hdrFieldCount, hdrBad]
  split_ifs with hpads
  · rw [← checkFields_six]
    simp only [bind_assoc]
  · rw [← hdrFieldChecks_eq]

/-- Settles O55. -/
theorem hdrpPacks : Obligations.HdrpPacks := by
  unfold Obligations.HdrpPacks
  intro s legal out hlegal hout
  rw [← hdrBytes_eq] at hout
  have hbad : ∀ i, hdrBad s.hdr i = false ↔ legal i := fun i => by rw [hlegal]; exact hdrFieldBad_eq_false
  have hcount : ∀ i ≤ 5, i < hdrFieldCount s.hdr ↔ (i = 5 → InPaddingSet (s.hdr.extractLsb' 32 8).toNat) := fun i hi => by
    rw [hdrFieldCount, ← hdrPads_iff, hdrComp]
    split_ifs with hpads
    · exact ⟨fun _ _ => hpads, fun _ => by omega⟩
    · exact ⟨fun hlt h5 => absurd hlt (by omega), fun h => by by_contra h5; exact hpads (h (by omega))⟩
  refine ⟨fun hrange => ⟨_, (exec_hdrp s).trans (State.finishBulk_check (State.checkOut_error (Nat.not_le.mpr hrange))),
    s.trapped _⟩, fun hready => ⟨fun i hi hpads hnot hfirst => ?_, fun hlow hpad => ?_⟩⟩
  · have herror := checkFields_error (bad := hdrBad s.hdr) (Nat.zero_le i)
      (by rw [Nat.zero_add]; exact (hcount i hi).mpr hpads) (by rwa [← Bool.not_eq_false, hbad])
      fun m _ hm => (hbad m).mpr (hfirst m hm)
    exact State.raises (exec_hdrp s) (State.checkOut_ok.mpr hready) (bind_of_error herror _)
  · have hok : checkFields (hdrBad s.hdr) 0 (hdrFieldCount s.hdr) = .ok () := checkFields_ok fun j _ hj => by
      rw [Nat.zero_add] at hj
      have hle : j ≤ 5 := by rw [hdrFieldCount] at hj; split_ifs at hj <;> omega
      refine (hbad j).mpr ?_
      obtain rfl | hlt := Nat.eq_or_lt_of_le hle
      · exact hpad ((hcount 5 hle).mp hj rfl)
      · exact hlow j (Nat.le_of_lt_succ hlt)
    rw [hout]
    exact State.deliversOrCap (exec_hdrp s) (State.checkOut_ok.mpr hready) (pure_bind_ok hok _)

/-! ### Unpacking (R346) -/

/-- What is checked of the bytes of a header, the magic aside. -/
def bytesBad (b : List Byte) : Nat → Bool :=
  hdrFieldBad (byteAt b 4).toNat (byteAt b 5).toNat (byteAt b 6).toNat ((byteAt b 7).toNat % 128) (byteAt b 8).toNat
    (byteAt b 9).toNat

section
variable {len : Nat} {b : List Byte}

theorem hdrParse_short (h : len < 9) : hdrParse len b = .error ⟨.eBlkLen, 9⟩ := by
  rw [hdrParse, check_bind]
  exact if_pos (decide_eq_true h)

theorem hdrParse_magic (hlen : 9 ≤ len) (h : b.take 4 ≠ hdrMagic) : hdrParse len b = .error ⟨.eHdrMagic, leValue (b.take 4)⟩ := by
  rw [hdrParse, check_bind, if_neg (by simpa using hlen), check_bind]
  exact if_pos (by simpa using h)

variable (hlen : 9 ≤ len) (hmagic : b.take 4 = hdrMagic)
include hlen hmagic

theorem hdrParse_fields {i : Nat} (hi : i ≤ 4) (hbad : bytesBad b i = true) (hfirst : ∀ j < i, bytesBad b j = false) :
    hdrParse len b = .error ⟨.eHdrField, i⟩ := by
  have herror := checkFields_error (bad := bytesBad b) (n := 5) (Nat.zero_le i) (by omega) hbad fun m _ hm => hfirst m hm
  rw [bytesBad, ← hdrFieldChecks_eq] at herror
  rw [hdrParse, check_bind, if_neg (by simpa using hlen), check_bind, if_neg (by simpa using hmagic), bind_of_error herror]

variable (hfields : ∀ i ≤ 4, bytesBad b i = false)
include hfields

theorem hdrParse_unpadded (hpads : ¬ hdrPads (byteAt b 8).toNat = true) : hdrParse len b = .ok (hdrOfBytes b 0, 9) := by
  have hok := checkFields_ok (bad := bytesBad b) (i := 0) (n := 5) fun j _ hj => hfields j (by omega)
  rw [bytesBad, ← hdrFieldChecks_eq] at hok
  rw [hdrParse, check_bind, if_neg (by simpa using hlen), check_bind, if_neg (by simpa using hmagic), pure_bind_ok hok,
    if_neg hpads]
  rfl

variable (hpads : hdrPads (byteAt b 8).toNat = true)
include hpads

theorem hdrParse_padded : hdrParse len b = if len < 10 then .error ⟨.eBlkLen, 10⟩
    else if bytesBad b 5 then .error ⟨.eHdrField, 5⟩ else .ok (hdrOfBytes b (byteAt b 9), 10) := by
  have hok := checkFields_ok (bad := bytesBad b) (i := 0) (n := 5) fun j _ hj => hfields j (by omega)
  rw [bytesBad, ← hdrFieldChecks_eq] at hok
  rw [hdrParse, check_bind, if_neg (by simpa using hlen), check_bind, if_neg (by simpa using hmagic), pure_bind_ok hok,
    if_pos hpads, check_bind, hdrPadCheck, check_bind]
  simp only [decide_eq_true_eq]
  rfl

end

section
variable {s : State}

theorem exec_hdru_error (hready : s.InputReady s.len.toNat) {e : Raised}
    (h : hdrParse s.len.toNat (s.readBytes s.pa.toNat (min s.len.toNat 10)) = .error e) :
    exec .hdru s = .next (s.raise e) := by
  have hread : (s.checkLen >>= fun _ => s.checkIn s.len.toNat >>= fun _ =>
      hdrParse s.len.toNat (s.readBytes s.pa.toNat (min s.len.toNat 10))) = .error e := by
    rw [pure_bind_ok (State.checkLen_ok.mpr hready.1), pure_bind_ok (State.checkIn_ok.mpr hready.2), h]
  simp only [exec, execHdru, hread, State.trap]

theorem exec_hdru_ok (hready : s.InputReady s.len.toNat) {w : Word} {n : Nat}
    (h : hdrParse s.len.toNat (s.readBytes s.pa.toNat (min s.len.toNat 10)) = .ok (w, n)) :
    exec .hdru s = .next { s with hdr := w, olen := 0, used := BitVec.ofNat 64 n } := by
  have hread : (s.checkLen >>= fun _ => s.checkIn s.len.toNat >>= fun _ =>
      hdrParse s.len.toNat (s.readBytes s.pa.toNat (min s.len.toNat 10))) = .ok (w, n) := by
    rw [pure_bind_ok (State.checkLen_ok.mpr hready.1), pure_bind_ok (State.checkIn_ok.mpr hready.2), h]
  simp only [exec, execHdru, hread]

/-- Settles O56. -/
theorem hdruUnpacks : Obligations.HdruUnpacks := by
  unfold Obligations.HdruUnpacks
  intro s b legal hb hlegal
  have hfails : ∀ {e}, commonChecks .hdru s = .error e → ∃ t, exec .hdru s = .next t ∧ Trapped s t e := fun h =>
    ⟨_, exec_hdru_of_commonChecks_error h, s.trapped _⟩
  refine ⟨fun hlong => hfails ?_, fun hle hrange => hfails ?_, fun hready => ?_⟩
  · rw [commonChecks_hdru, bind_of_error (State.checkLen_error hlong)]
  · rw [commonChecks_hdru, pure_bind_ok (State.checkLen_ok.mpr hle), State.checkIn_error hrange]
  have hraises : ∀ {e}, hdrParse s.len.toNat (s.readBytes s.pa.toNat (min s.len.toNat 10)) = .error e →
      ∃ t, exec .hdru s = .next t ∧ Trapped s t e := fun h => ⟨_, exec_hdru_error hready h, s.trapped _⟩
  refine ⟨fun hshort => hraises (hdrParse_short hshort), fun hlen => ?_⟩
  have hbyte : ∀ i < min s.len.toNat 10, byteAt (s.readBytes s.pa.toNat (min s.len.toNat 10)) i = b i := fun i hi => by
    rw [byteAt, s.getD_readBytes _ hi, hb]
  have hfour : (s.readBytes s.pa.toNat (min s.len.toNat 10)).take 4 = [b 0, b 1, b 2, b 3] := by
    rw [← List.drop_zero (l := s.readBytes s.pa.toNat (min s.len.toNat 10)), s.take_drop_readBytes _ (by omega), hb]
    rfl
  have hmagic : (s.readBytes s.pa.toNat (min s.len.toNat 10)).take 4 = hdrMagic ↔
      (b 0 = 0x53 ∧ b 1 = 0x46 ∧ b 2 = 0x43 ∧ b 3 = 0x43) := by
    rw [hfour, hdrMagic]
    simp only [List.cons.injEq, and_true]
  have hlow : ∀ i ≤ 4, bytesBad (s.readBytes s.pa.toNat (min s.len.toNat 10)) i = false ↔ legal i := fun i hi => by
    rw [bytesBad, hbyte 4 (by omega), hbyte 5 (by omega), hbyte 6 (by omega), hbyte 7 (by omega), hbyte 8 (by omega),
      hdrFieldBad_eq_false, hlegal]
    match i, hi with
    | 0, _ | 1, _ | 2, _ | 3, _ | 4, _ => rfl
  refine ⟨fun hnot => ?_, fun hyes => ⟨fun i hi hbad hfirst => ?_, fun hall => ?_⟩⟩
  · rw [← hfour]
    exact hraises (hdrParse_magic hlen (mt hmagic.mp hnot))
  · exact hraises (hdrParse_fields hlen (hmagic.mpr hyes) hi (by rwa [← Bool.not_eq_false, hlow i hi]) fun j hj =>
      (hlow j (by omega)).mpr (hfirst j hj))
  · have hfields := fun i hi => (hlow i hi).mpr (hall i hi)
    have h8 := hbyte 8 (by omega)
    have hpadded := fun hset : InPaddingSet (b 8).toNat =>
      hdrParse_padded hlen (hmagic.mpr hyes) hfields (by rwa [h8, hdrPads_iff])
    have hpad : 10 ≤ s.len.toNat →
        (bytesBad (s.readBytes s.pa.toNat (min s.len.toNat 10)) 5 = false ↔ legal 5) := fun hten => by
      rw [bytesBad, hbyte 9 (by omega), hdrFieldBad_eq_false, hlegal]
      rfl
    refine ⟨fun hset hshort => hraises ?_, fun hset hten hbad => hraises ?_, fun hset hten hgood => ?_, fun hset => ?_⟩
    · rw [hpadded hset, if_pos hshort]
    · rw [hpadded hset, if_neg (by omega), if_pos (by rwa [← Bool.not_eq_false, hpad hten])]
    · refine (exec_hdru_ok hready ((hpadded hset).trans ((if_neg (by omega)).trans
        (if_neg (ne_true_of_eq_false ((hpad hten).mpr hgood)))))).trans ?_
      rw [hdrOfBytes_eq, hbyte 4 (by omega), hbyte 5 (by omega), hbyte 6 (by omega), hbyte 7 (by omega), h8,
        hbyte 9 (by omega)]
      rfl
    · have hparse := hdrParse_unpadded hlen (hmagic.mpr hyes) hfields (by rwa [h8, hdrPads_iff])
      rw [exec_hdru_ok hready hparse, hdrOfBytes_eq, hbyte 4 (by omega), hbyte 5 (by omega), hbyte 6 (by omega),
        hbyte 7 (by omega), h8]
      rfl

end

/-! ### The round trip (R349) -/

theorem length_hdrBytes (h : Word) : (hdrBytes h).length = if hdrPads (hdrComp h).toNat then 10 else 9 := by
  rw [hdrBytes]
  split_ifs <;> rfl

/-- The bytes of a legal header are parsed back. -/
theorem hdrParse_hdrBytes {h : Word} (hok : ∀ i < hdrFieldCount h, hdrBad h i = false) :
    hdrParse (hdrBytes h).length (hdrBytes h) =
      .ok (hdrOfBytes (hdrBytes h) (if hdrPads (hdrComp h).toNat then hdrNpad h else 0), (hdrBytes h).length) := by
  have hlen := length_hdrBytes h
  have hsfc : (byteAt (hdrBytes h) 7).toNat % 128 = (hdrSfc h).toNat := by
    have hbyte : byteAt (hdrBytes h) 7 = (hdrBt h ++ hdrSfc h : BitVec (1 + 7)) := rfl
    have hlt := (hdrSfc h).isLt
    rw [hbyte, toNat_append_eq]
    omega
  have hlow : ∀ i ≤ 4, bytesBad (hdrBytes h) i = hdrBad h i := fun i hi => by
    rw [bytesBad, hsfc, hdrBad]
    match i, hi with
    | 0, _ | 1, _ | 2, _ | 3, _ | 4, _ => rfl
  have hfields : ∀ i ≤ 4, bytesBad (hdrBytes h) i = false := fun i hi => by
    rw [hlow i hi]
    refine hok i ?_
    rw [hdrFieldCount]
    split_ifs <;> omega
  have hcomp : byteAt (hdrBytes h) 8 = hdrComp h := rfl
  have hnine : 9 ≤ (hdrBytes h).length := by rw [hlen]; split_ifs <;> omega
  by_cases hpads : hdrPads (hdrComp h).toNat = true
  · have hnpad : byteAt (hdrBytes h) 9 = hdrNpad h := by
      rw [hdrBytes, if_pos hpads]
      rfl
    have hfive : bytesBad (hdrBytes h) 5 = false := by
      have hbad : hdrBad h 5 = false := hok 5 (by rw [hdrFieldCount, if_pos hpads]; omega)
      rw [bytesBad, hnpad]
      exact hbad
    rw [if_pos hpads] at hlen
    rw [hdrParse_padded hnine rfl hfields (by rw [hcomp, hpads]), if_neg (by omega), hfive, hnpad, hlen, if_pos hpads]
    rfl
  · rw [if_neg hpads] at hlen
    rw [hdrParse_unpadded hnine rfl hfields (by rwa [hcomp]), hlen, if_neg hpads]

theorem hdrOfBytes_hdrBytes (h : Word) (npad : Byte) : hdrOfBytes (hdrBytes h) npad =
    BitVec.ofNat 64 (leValue [h.extractLsb' 0 8, h.extractLsb' 8 8, h.extractLsb' 16 8, h.extractLsb' 24 8,
      h.extractLsb' 32 8, npad]) := by
  have hbyte : byteAt (hdrBytes h) 7 = h.extractLsb' 24 8 := hdrBt_append_hdrSfc h
  rw [hdrOfBytes_eq, hbyte]
  rfl

/-- Six bytes of a word are its low 48 bits, five its low 40. -/
theorem and_mask48 (h : Word) : BitVec.ofNat 64 (leValue [h.extractLsb' 0 8, h.extractLsb' 8 8, h.extractLsb' 16 8,
    h.extractLsb' 24 8, h.extractLsb' 32 8, h.extractLsb' 40 8]) = h &&& 0x0000FFFFFFFFFFFF := by
  refine BitVec.eq_of_toNat_eq ?_
  have hmask : (h &&& 0x0000FFFFFFFFFFFF : Word).toNat = h.toNat % 2 ^ 48 := by
    rw [BitVec.toNat_and, ← Nat.and_two_pow_sub_one_eq_mod]
    rfl
  rw [hmask, BitVec.toNat_ofNat]
  simp only [leValue, toNat_extractLsb'_eq]
  omega

theorem and_mask40 (h : Word) : BitVec.ofNat 64 (leValue [h.extractLsb' 0 8, h.extractLsb' 8 8, h.extractLsb' 16 8,
    h.extractLsb' 24 8, h.extractLsb' 32 8, 0]) = h &&& 0x000000FFFFFFFFFF := by
  refine BitVec.eq_of_toNat_eq ?_
  have hmask : (h &&& 0x000000FFFFFFFFFF : Word).toNat = h.toNat % 2 ^ 40 := by
    rw [BitVec.toNat_and, ← Nat.and_two_pow_sub_one_eq_mod]
    rfl
  rw [hmask, BitVec.toNat_ofNat]
  simp only [leValue, toNat_extractLsb'_eq, show (0 : Byte).toNat = 0 from rfl]
  omega

/-- The bytes of a delivered result are read at `PB`. -/
theorem Delivered.readBytes {s t : State} {b : BulkResult} (h : Delivered s t b) :
    t.readBytes s.pb.toNat b.out.length = b.out := by
  obtain ⟨hbytes, -⟩ := h
  refine List.ext_getElem? fun i => ?_
  by_cases hi : i < b.out.length
  · rw [t.getElem?_readBytes _ _ i hi, hbytes, if_pos ⟨Nat.le_add_right _ _, Nat.add_lt_add_left hi _⟩,
      Nat.add_sub_cancel_left, List.getD_eq_getElem _ _ hi, List.getElem?_eq_getElem hi]
  · rw [List.getElem?_eq_none (by simpa using hi), List.getElem?_eq_none (Nat.le_of_not_lt hi)]

/-- What a completed bulk command went through. -/
theorem State.finishBulk_completed {s t : State} {checks : Except Raised Unit} {result : Unit → Except Raised BulkResult}
    (h : s.finishBulk checks result = .next t) (herr : t.err = false) :
    checks = .ok () ∧ ∃ b, result () = .ok b ∧ b.out.length ≤ s.cap.toNat ∧ t = s.complete b := by
  obtain ⟨e, -, ht⟩ | ⟨-, e, -, ht⟩ | ⟨hchecks, b, hb, hfits, ht⟩ := State.finishBulk_cases h
  · obtain rfl := Host.Outcome.next.inj ht
    cases herr
  · obtain rfl := Host.Outcome.next.inj ht
    cases herr
  · exact ⟨hchecks, b, hb, hfits, Host.Outcome.next.inj ht⟩

/-- `OLEN` after a completion is the number of bytes delivered. -/
theorem State.toNat_complete_olen {s : State} {b : BulkResult} (h : b.out.length ≤ s.cap.toNat) :
    (s.complete b).olen.toNat = b.out.length := by
  rw [State.complete_olen, BitVec.toNat_ofNat]
  exact Nat.mod_eq_of_lt (h.trans_lt s.cap.isLt)

/-- `HDRU` at the bytes of a legal header. -/
theorem exec_hdru_hdrBytes {v : State} {h : Word} (hok : ∀ i < hdrFieldCount h, hdrBad h i = false)
    (hready : v.InputReady v.len.toNat) (hlen : v.len.toNat = (hdrBytes h).length)
    (hbytes : v.readBytes v.pa.toNat (hdrBytes h).length = hdrBytes h) :
    exec .hdru v = .next { v with
      hdr := hdrOfBytes (hdrBytes h) (if hdrPads (hdrComp h).toNat then hdrNpad h else 0)
      olen := 0
      used := BitVec.ofNat 64 (hdrBytes h).length } := by
  have hle : (hdrBytes h).length ≤ 10 := by
    rw [length_hdrBytes]
    split_ifs <;> omega
  refine exec_hdru_ok hready ?_
  rw [hlen, Nat.min_eq_left hle, hbytes, hdrParse_hdrBytes hok]

/-- Settles O57: `HDRU` reads the bytes that `HDRP` wrote. -/
theorem headerRoundTrip : Obligations.HeaderRoundTrip := by
  unfold Obligations.HeaderRoundTrip
  intro s t herr hexec hfault hmax
  rw [exec_hdrp] at hexec
  obtain ⟨hout, b, hb, hfits, ht⟩ := State.finishBulk_completed hexec hfault
  obtain ⟨_, hfields, hb⟩ := bind_ok.mp hb
  obtain rfl := Except.ok.inj hb
  have hok : ∀ i < hdrFieldCount s.hdr, hdrBad s.hdr i = false := fun i hi =>
    eq_false_of_checkFields_ok hfields i (Nat.zero_le i) (by rwa [Nat.zero_add])
  have hready : s.pb.toNat + s.cap.toNat ≤ s.cfg.memSz := State.checkOut_ok.mp hout
  have holen : t.olen.toNat = (hdrBytes s.hdr).length := ht ▸ State.toNat_complete_olen hfits
  have hbytes : t.readBytes s.pb.toNat (hdrBytes s.hdr).length = hdrBytes s.hdr := ht ▸ (s.delivered _).readBytes
  have hpb : t.pb = s.pb := by rw [ht]; rfl
  have hcfg : t.cfg = s.cfg := by rw [ht]; rfl
  have hsame : SameMemory t { t with pa := t.pb, len := t.olen } := fun _ => rfl
  have hfits : (hdrBytes s.hdr).length ≤ s.cap.toNat := hfits
  refine ⟨_, exec_hdru_hdrBytes hok ⟨?_, ?_⟩ holen ?_, hfault, ?_, fun hset => ?_, fun hset => ?_⟩
  · change t.olen.toNat ≤ t.cfg.maxElems
    rwa [hcfg]
  · change t.pb.toNat + t.olen.toNat ≤ t.cfg.memSz
    rw [hcfg, hpb, holen]
    omega
  · rw [hsame.readBytes]
    change t.readBytes t.pb.toNat _ = _
    rw [hpb, hbytes]
  · change BitVec.ofNat 64 (hdrBytes s.hdr).length = t.olen
    rw [ht]
    rfl
  · change hdrOfBytes (hdrBytes s.hdr) (if hdrPads (hdrComp s.hdr).toNat then hdrNpad s.hdr else 0) = _
    have hpads : hdrPads (hdrComp s.hdr).toNat = true := hdrPads_iff.mpr hset
    rw [if_pos hpads, hdrOfBytes_hdrBytes]
    exact and_mask48 s.hdr
  · change hdrOfBytes (hdrBytes s.hdr) (if hdrPads (hdrComp s.hdr).toNat then hdrNpad s.hdr else 0) = _
    have hpads : ¬ hdrPads (hdrComp s.hdr).toNat = true := mt hdrPads_iff.mp hset
    rw [if_neg hpads, hdrOfBytes_hdrBytes]
    exact and_mask40 s.hdr

end Sys2Proof.Machine


/-! PROOFS. The Burrows-Wheeler transform (44_bwt.md). The rows of a block are ordered by the suffixes they begin; the order of
the successors of the rows is the order of the rows themselves (the last column sorted stably), which is what the inverse
follows. -/

namespace Sys2Proof.Machine

/-! ### Sorting -/

theorem perm_range_of_nodup {l : List Nat} {m : Nat} (hnodup : l.Nodup) (hlt : ∀ x ∈ l, x < m) (hlen : l.length = m) :
    l.Perm (List.range m) :=
  (List.subperm_of_subset hnodup fun x hx => List.mem_range.mpr (hlt x hx)).perm_of_length_le
    (by rw [List.length_range, hlen])

section
variable {K : Type} [LinearOrder K] {key : Nat → K} {r : Nat → Nat → Prop} [DecidableRel r]
  (hr : ∀ i k, r i k ↔ key i ≤ key k)
include hr

theorem pairwise_insertionSort_key (l : List Nat) : (l.insertionSort r).Pairwise (fun i k => key i ≤ key k) := by
  have htotal : Std.Total r := ⟨fun i k => by rw [hr, hr]; exact le_total _ _⟩
  have htrans : IsTrans Nat r := ⟨fun i k j => by rw [hr, hr, hr]; exact le_trans⟩
  exact (List.pairwise_insertionSort r l).imp fun {i k} h => (hr i k).mp h

/-- Sorting finds the one strictly rising arrangement. -/
theorem insertionSort_eq_of_strict {l l' : List Nat} (hperm : l'.Perm l) (hl' : l'.Pairwise (fun i k => key i < key k)) :
    l.insertionSort r = l' := by
  refine List.Perm.eq_of_pairwise (le := fun i k => key i ≤ key k) (fun i k hi hk hik hki => ?_)
    (pairwise_insertionSort_key hr l) (hl'.imp fun h => le_of_lt h) ((List.perm_insertionSort r l).trans hperm.symm)
  have hi' : i ∈ l' := hperm.mem_iff.mpr ((List.perm_insertionSort r l).mem_iff.mp hi)
  by_contra hne
  have hirr : Std.Symm (fun i k : Nat => key i ≠ key k) := ⟨fun _ _ h => h.symm⟩
  exact (hl'.imp fun h => ne_of_lt h).forall hi' hk hne (le_antisymm hik hki)

/-- Distinct keys are sorted strictly. -/
theorem strict_insertionSort {l : List Nat} (hl : l.Nodup)
    (hinj : ∀ i ∈ l, ∀ k ∈ l, key i = key k → i = k) : (l.insertionSort r).Pairwise (fun i k => key i < key k) := by
  have hperm := List.perm_insertionSort r l
  refine List.Pairwise.imp_of_mem (fun {i k} hi hk h => ?_)
    ((pairwise_insertionSort_key hr l).and (hperm.nodup_iff.mpr hl))
  exact lt_of_le_of_ne h.1 fun heq => h.2 (hinj i (hperm.mem_iff.mp hi) k (hperm.mem_iff.mp hk) heq)

end

/-- In a strictly rising list the greater key stands later. -/
theorem idxOf_lt_idxOf {K : Type} [LinearOrder K] {key : Nat → K} {l : List Nat}
    (hl : l.Pairwise (fun i k => key i < key k)) {i k : Nat} (hi : i ∈ l) (hk : k ∈ l) (h : key i < key k) :
    l.idxOf i < l.idxOf k := by
  have hilt := List.idxOf_lt_length_of_mem hi
  have hklt := List.idxOf_lt_length_of_mem hk
  by_contra hnot
  obtain heq | hlt := Nat.eq_or_lt_of_le (Nat.le_of_not_lt hnot)
  · have hsame : k = i := by
      rw [← List.getElem_idxOf hklt, ← List.getElem_idxOf hilt]
      simp only [heq]
    exact lt_irrefl _ (hsame ▸ h)
  · have hback := List.pairwise_iff_getElem.mp hl _ _ hklt hilt hlt
    rw [List.getElem_idxOf hilt, List.getElem_idxOf hklt] at hback
    exact lt_asymm h hback

/-! ### Symbols and rows (R222, R223) -/

/-- A symbol as an element of the order, `EOB` on top. -/
def symKey (a : Symbol) : WithTop Nat := a.elim ⊤ (fun n => (n : WithTop Nat))

theorem symKey_some (n : Nat) : symKey (some n) = (n : WithTop Nat) := rfl

theorem symKey_none : symKey none = ⊤ := rfl

theorem symKey_inj {a b : Symbol} : symKey a = symKey b ↔ a = b := by
  cases a <;> cases b <;> simp [symKey]

theorem symbolLt_iff {a b : Symbol} : symbolLt a b = true ↔ symKey a < symKey b := by
  cases a <;> cases b <;> simp [symKey, symbolLt]

/-- The order of rows is the order of their suffixes. -/
theorem rowLe_iff {as bs : List Symbol} : rowLe as bs = true ↔ as.map symKey ≤ bs.map symKey := by
  rw [← not_lt]
  induction as generalizing bs with
  | nil => simp [rowLe]
  | cons a as ih =>
    cases bs with
    | nil => simp [rowLe]
    | cons b bs =>
      rw [rowLe, List.map_cons, List.map_cons, List.cons_lt_cons_iff, Bool.or_eq_true, Bool.and_eq_true, ih, symbolLt_iff,
        beq_iff_eq, ← symKey_inj]
      constructor
      · rintro (hlt | ⟨heq, hnot⟩)
        · exact fun h => h.elim (lt_asymm hlt) fun h => ne_of_lt hlt h.1.symm
        · exact fun h => h.elim (fun h => ne_of_lt h heq.symm) fun h => hnot h.2
      · intro h
        obtain hlt | heq | hgt := lt_trichotomy (symKey a) (symKey b)
        · exact .inl hlt
        · exact .inr ⟨heq, fun hlt => h (.inr ⟨heq.symm, hlt⟩)⟩
        · exact absurd (.inl hgt) h

@[simp] theorem length_extended (xs : List Nat) : (extended xs).length = xs.length + 1 := by
  simp [extended]

theorem bwtRow_eq (xs : List Nat) (i : Nat) : bwtRow xs i = ((extended xs).drop i).map symKey := by
  rw [bwtRow, extended, List.map_drop, List.map_append, List.map_map, List.map_eq_flatMap (f := symKey ∘ some), List.map_id']
  rfl

/-- Symbol `i` of the extended block. -/
def symbolAt (xs : List Nat) (i : Nat) : Symbol := (extended xs).getD i none

theorem symbolAt_of_lt {xs : List Nat} {i : Nat} (h : i < xs.length) : symbolAt xs i = some xs[i] := by
  rw [symbolAt, extended, List.getD_append _ _ _ _ (by simpa using h), List.getD_eq_getElem _ _ (by simpa using h),
    List.getElem_map]

theorem symbolAt_length (xs : List Nat) : symbolAt xs xs.length = none := by
  rw [symbolAt, extended, List.getD_append_right _ _ _ _ (by simp)]
  simp

/-- `EOB` stands at the end only. -/
theorem symbolAt_eq_none {xs : List Nat} {i : Nat} (h : i ≤ xs.length) : symbolAt xs i = none ↔ i = xs.length := by
  obtain rfl | hlt := Nat.eq_or_lt_of_le h
  · simp [symbolAt_length]
  · rw [symbolAt_of_lt hlt]
    simp [Nat.ne_of_lt hlt]

theorem bwtRow_cons {xs : List Nat} {i : Nat} (h : i ≤ xs.length) :
    bwtRow xs i = symKey (symbolAt xs i) :: bwtRow xs (i + 1) := by
  have hlt : i < (extended xs).length := by rw [length_extended]; omega
  rw [bwtRow_eq, bwtRow_eq, List.drop_eq_getElem_cons hlt, List.map_cons, symbolAt, List.getD_eq_getElem _ _ hlt]

theorem length_bwtRow (xs : List Nat) (i : Nat) : (bwtRow xs i).length = xs.length + 1 - i := by
  rw [bwtRow_eq, List.length_map, List.length_drop, length_extended]

/-- Rows are told apart by their lengths. -/
theorem bwtRow_inj {xs : List Nat} {i k : Nat} (hi : i ≤ xs.length) (hk : k ≤ xs.length) (h : bwtRow xs i = bwtRow xs k) :
    i = k := by
  have hlen := congrArg List.length h
  rw [length_bwtRow, length_bwtRow] at hlen
  omega

/-- Rows compare by their first symbols, then as the rows after them. -/
theorem bwtRow_lt_iff {xs : List Nat} {i k : Nat} (hi : i ≤ xs.length) (hk : k ≤ xs.length) :
    bwtRow xs i < bwtRow xs k ↔ symKey (symbolAt xs i) < symKey (symbolAt xs k)
      ∨ symbolAt xs i = symbolAt xs k ∧ bwtRow xs (i + 1) < bwtRow xs (k + 1) := by
  rw [bwtRow_cons hi, bwtRow_cons hk, List.cons_lt_cons_iff, symKey_inj]

/-- The row of `EOB` alone is the last. -/
theorem bwtRow_lt_last {xs : List Nat} {i : Nat} (h : i < xs.length) : bwtRow xs i < bwtRow xs xs.length := by
  refine (bwtRow_lt_iff (Nat.le_of_lt h) (Nat.le_refl _)).mpr (.inl ?_)
  rw [symbolAt_of_lt h, symbolAt_length, symKey_some, symKey_none]
  exact WithTop.coe_lt_top _

/-! ### The sorted rows (R224) -/

/-- An arrangement of the rows in which they rise is the sorted one. -/
def RowsSorted (xs : List Nat) (sa : List Nat) : Prop :=
  sa.Perm (List.range (xs.length + 1)) ∧ sa.Pairwise (fun i k => bwtRow xs i < bwtRow xs k)

theorem rowRel_iff (xs : List Nat) (i k : Nat) :
    rowLe ((extended xs).drop i) ((extended xs).drop k) = true ↔ bwtRow xs i ≤ bwtRow xs k := by
  rw [rowLe_iff, bwtRow_eq, bwtRow_eq]

theorem rowsSorted_sortedRows (xs : List Nat) : RowsSorted xs (sortedRows (extended xs)) := by
  rw [sortedRows, length_extended]
  refine ⟨List.perm_insertionSort _ _, strict_insertionSort (rowRel_iff xs) List.nodup_range fun i hi k hk h => ?_⟩
  rw [List.mem_range] at hi hk
  exact bwtRow_inj (Nat.le_of_lt_succ hi) (Nat.le_of_lt_succ hk) h

theorem RowsSorted.eq_sortedRows {xs sa : List Nat} (h : RowsSorted xs sa) : sortedRows (extended xs) = sa := by
  rw [sortedRows, length_extended]
  exact insertionSort_eq_of_strict (rowRel_iff xs) h.1 h.2

section
variable {xs sa : List Nat} (h : RowsSorted xs sa)
include h

theorem RowsSorted.mem {i : Nat} : i ∈ sa ↔ i ≤ xs.length := by
  rw [h.1.mem_iff, List.mem_range, Nat.lt_succ_iff]

theorem RowsSorted.nodup : sa.Nodup := h.1.nodup_iff.mpr List.nodup_range

theorem RowsSorted.length : sa.length = xs.length + 1 := by
  rw [h.1.length_eq, List.length_range]

theorem RowsSorted.idxOf_lt {i : Nat} (hi : i ≤ xs.length) : sa.idxOf i < xs.length + 1 :=
  h.length ▸ List.idxOf_lt_length_of_mem (h.mem.mpr hi)

theorem RowsSorted.getElem?_idxOf {i : Nat} (hi : i ≤ xs.length) : sa[sa.idxOf i]? = some i := by
  have hlt := List.idxOf_lt_length_of_mem (h.mem.mpr hi)
  rw [List.getElem?_eq_getElem hlt, List.getElem_idxOf hlt]

/-- The identity row of a block that is not empty is not the last. -/
theorem RowsSorted.identity_lt (hne : xs ≠ []) : sa.idxOf 0 < xs.length := by
  have hpos := List.length_pos_iff.mpr hne
  have hlt := idxOf_lt_idxOf h.2 (h.mem.mpr (Nat.zero_le _)) (h.mem.mpr (Nat.le_refl _)) (bwtRow_lt_last hpos)
  have hlast := h.idxOf_lt (Nat.le_refl xs.length)
  omega

end

/-! ### The last column (R224, R227) -/

/-- The last column with its `EOB` at `p`. -/
def lastColumn (ts : List Nat) (p : Nat) : List Symbol := (ts.take p).map some ++ [none] ++ (ts.drop p).map some

theorem length_lastColumn (ts : List Nat) (p : Nat) : (lastColumn ts p).length = ts.length + 1 := by
  simp only [lastColumn, List.length_append, List.length_map, List.length_take, List.length_drop, List.length_singleton]
  omega

theorem reduceOption_map_some (l : List Nat) : (l.map some).reduceOption = l := by
  induction l with
  | nil => rfl
  | cons x l ih => rw [List.map_cons, List.reduceOption_cons_of_some, ih]

/-- Taking `EOB` out of the last column. -/
theorem reduceOption_lastColumn {ts : List Nat} {p : Nat} (hp : p ≤ ts.length) :
    ((lastColumn ts p).take p ++ (lastColumn ts p).drop (p + 1)).reduceOption = ts := by
  have hlen : ((ts.take p).map some).length = p := by rw [List.length_map, List.length_take, Nat.min_eq_left hp]
  have htake : (lastColumn ts p).take p = (ts.take p).map some := by
    rw [lastColumn, List.append_assoc, List.take_left' hlen]
  have hdrop : (lastColumn ts p).drop (p + 1) = (ts.drop p).map some := by
    rw [lastColumn, List.drop_left']
    rw [List.length_append, hlen, List.length_singleton]
  rw [htake, hdrop, List.reduceOption_append, reduceOption_map_some, reduceOption_map_some, List.take_append_drop]

theorem exists_map_some {l : List Symbol} (h : ∀ a ∈ l, a ≠ none) : ∃ l' : List Nat, l = l'.map some := by
  induction l with
  | nil => exact ⟨[], rfl⟩
  | cons a l ih =>
    obtain ⟨ha, hl⟩ := List.forall_mem_cons.mp h
    obtain ⟨l', rfl⟩ := ih hl
    obtain ⟨n, rfl⟩ := Option.ne_none_iff_exists'.mp ha
    exact ⟨n :: l', rfl⟩

/-- A column with one `EOB`, at `p`, is the last column of what stands around it. -/
theorem eq_lastColumn {lc : List Symbol} {p : Nat} (hp : lc[p]? = some none) (hone : ∀ k, lc[k]? = some none → k = p) :
    lc = lastColumn (lc.take p ++ lc.drop (p + 1)).reduceOption p ∧
      p ≤ (lc.take p ++ lc.drop (p + 1)).reduceOption.length := by
  have hlt := lt_of_getElem?_eq_some hp
  obtain ⟨front, hfront⟩ : ∃ l' : List Nat, lc.take p = l'.map some := exists_map_some fun a ha hnone => by
    obtain ⟨k, hk⟩ := List.mem_iff_getElem?.mp ha
    have hkp : k < p := by
      have := lt_of_getElem?_eq_some hk
      rw [List.length_take] at this
      omega
    rw [List.getElem?_take_of_lt hkp, hnone] at hk
    exact Nat.ne_of_lt hkp (hone k hk)
  obtain ⟨back, hback⟩ : ∃ l' : List Nat, lc.drop (p + 1) = l'.map some := exists_map_some fun a ha hnone => by
    obtain ⟨k, hk⟩ := List.mem_iff_getElem?.mp ha
    rw [List.getElem?_drop, hnone] at hk
    have := hone _ hk
    omega
  have hlen : front.length = p := by
    have := congrArg List.length hfront
    rw [List.length_take, List.length_map] at this
    omega
  have hmid : lc.drop p = none :: lc.drop (p + 1) := by
    rw [List.drop_eq_getElem_cons hlt, (List.getElem?_eq_some_iff.mp hp).2]
  rw [hfront, hback, List.reduceOption_append, reduceOption_map_some, reduceOption_map_some, lastColumn,
    List.take_left' hlen, List.drop_left' hlen]
  refine ⟨?_, by rw [List.length_append]; omega⟩
  rw [← hfront, ← hback, List.append_assoc, List.singleton_append, ← hmid, List.take_append_drop]

theorem getElem?_lastColumn_of_ne {ts : List Nat} {p r : Nat} (hp : p ≤ ts.length) (hr : r ≠ p) :
    (lastColumn ts p)[r]? = (ts[if r < p then r else r - 1]?).map some := by
  have hlen : ((ts.take p).map some).length = p := by rw [List.length_map, List.length_take, Nat.min_eq_left hp]
  have hlen' : ((ts.take p).map some ++ [none]).length = p + 1 := by rw [List.length_append, hlen, List.length_singleton]
  rw [lastColumn]
  split_ifs with hlt
  · rw [List.getElem?_append_left (by omega), List.getElem?_append_left (by omega), List.getElem?_map,
      List.getElem?_take_of_lt hlt]
  · rw [List.getElem?_append_right (by omega), hlen', List.getElem?_map, List.getElem?_drop,
      show p + (r - (p + 1)) = r - 1 by omega]

theorem getD_lastColumn {ts : List Nat} {p : Nat} (hp : p ≤ ts.length) : (lastColumn ts p).getD p none = none := by
  have hlen : ((ts.take p).map some).length = p := by rw [List.length_map, List.length_take, Nat.min_eq_left hp]
  rw [lastColumn, List.append_assoc, List.getD_append_right _ _ _ _ (Nat.le_of_eq hlen), hlen, Nat.sub_self]
  rfl

theorem reduceOption_whole_lastColumn (ts : List Nat) (p : Nat) : (lastColumn ts p).reduceOption = ts := by
  rw [lastColumn, List.reduceOption_append, List.reduceOption_append, reduceOption_map_some, reduceOption_map_some,
    List.reduceOption_singleton, Option.toList_none, List.append_nil, List.take_append_drop]

/-! ### The symbol before a row -/

theorem lastSymbol_zero (xs : List Nat) : lastSymbol (extended xs) 0 = none := if_pos rfl

theorem lastSymbol_succ (xs : List Nat) (i : Nat) : lastSymbol (extended xs) (i + 1) = symbolAt xs i := by
  rw [lastSymbol, if_neg (Nat.succ_ne_zero i), Nat.add_sub_cancel, symbolAt]

theorem symbolAt_eq_getElem? {xs : List Nat} {i : Nat} (h : i ≤ xs.length) : symbolAt xs i = xs[i]? := by
  obtain rfl | hlt := Nat.eq_or_lt_of_le h
  · rw [symbolAt_length, List.getElem?_eq_none (Nat.le_refl _)]
  · rw [symbolAt_of_lt hlt, List.getElem?_eq_getElem hlt]

/-- Every element of the block is the symbol before one row. -/
theorem map_lastSymbol_range (xs : List Nat) :
    (List.range (xs.length + 1)).map (lastSymbol (extended xs)) = none :: xs.map some := by
  rw [List.range_succ_eq_map, List.map_cons, List.map_map, lastSymbol_zero]
  congr 1
  refine List.ext_getElem (by simp) fun i hi _ => ?_
  rw [List.length_map, List.length_range] at hi
  rw [List.getElem_map, List.getElem_range, List.getElem_map, Function.comp_apply, lastSymbol_succ, symbolAt_of_lt hi]

section
variable {xs sa : List Nat} (h : RowsSorted xs sa)
include h

/-- The last column has the elements of the block. -/
theorem RowsSorted.perm_of_lastColumn {ts : List Nat} {p : Nat}
    (hcolumn : sa.map (lastSymbol (extended xs)) = lastColumn ts p) : ts.Perm xs := by
  have hperm := (h.1.map (lastSymbol (extended xs))).filterMap id
  rw [hcolumn, map_lastSymbol_range] at hperm
  have hts : (lastColumn ts p).filterMap id = ts := reduceOption_whole_lastColumn ts p
  have hxs : (none :: xs.map some).filterMap id = xs := reduceOption_map_some xs
  rwa [hts, hxs] at hperm

theorem RowsSorted.getElem?_eq_zero {k : Nat} (hk : sa[k]? = some 0) : k = sa.idxOf 0 := by
  obtain ⟨hlt, hval⟩ := List.getElem?_eq_some_iff.mp hk
  rw [← hval, h.nodup.idxOf_getElem k hlt]

/-- The last column of the sorted rows has one `EOB`, in the identity row. -/
theorem RowsSorted.eq_idxOf_of_none {k : Nat} (hk : (sa.map (lastSymbol (extended xs)))[k]? = some none) :
    k = sa.idxOf 0 := by
  rw [List.getElem?_map, Option.map_eq_some_iff] at hk
  obtain ⟨row, hrow, hlast⟩ := hk
  have hle : row ≤ xs.length := h.mem.mp (List.mem_of_getElem? hrow)
  cases row with
  | zero => exact h.getElem?_eq_zero hrow
  | succ i =>
    rw [lastSymbol_succ, symbolAt_eq_none (by omega)] at hlast
    omega

theorem RowsSorted.lastColumn_exists : ∃ ts, ((sa.map (lastSymbol (extended xs))).take (sa.idxOf 0)
      ++ (sa.map (lastSymbol (extended xs))).drop (sa.idxOf 0 + 1)).reduceOption = ts
    ∧ sa.map (lastSymbol (extended xs)) = lastColumn ts (sa.idxOf 0) ∧ ts.length = xs.length := by
  have hmid : (sa.map (lastSymbol (extended xs)))[sa.idxOf 0]? = some none := by
    rw [List.getElem?_map, h.getElem?_idxOf (Nat.zero_le _), Option.map_some, lastSymbol_zero]
  obtain ⟨hcolumn, -⟩ := eq_lastColumn hmid fun k hk => h.eq_idxOf_of_none hk
  refine ⟨_, rfl, hcolumn, ?_⟩
  have hlen := congrArg List.length hcolumn
  rw [List.length_map, h.length, length_lastColumn] at hlen
  omega

end

/-! ### The forward transform (R224, R225) -/

theorem isConstant_iff {xs : List Nat} : isConstant xs = true ↔ ConstantBlock xs := by
  cases xs with
  | nil => simp [isConstant, ConstantBlock]
  | cons x xs =>
    rw [isConstant, List.all_eq_true]
    refine ⟨fun hall => ?_, fun hconst y hy => beq_iff_eq.mpr
      (hconst y (List.mem_cons_of_mem _ hy) x List.mem_cons_self)⟩
    have hx : ∀ y ∈ x :: xs, y = x := List.forall_mem_cons.mpr ⟨rfl, fun y hy => beq_iff_eq.mp (hall y hy)⟩
    exact fun y hy z hz => (hx y hy).trans (hx z hz).symm

theorem bwtForward_of_constant {xs : List Nat} (h : ConstantBlock xs) : bwtForward xs = (xs, 0) :=
  if_pos (isConstant_iff.mpr h)

/-- The forward transform is the last column of the sorted rows without its `EOB`. -/
theorem bwtForward_spec {xs sa : List Nat} (h : RowsSorted xs sa) (hnot : ¬ ConstantBlock xs) :
    ∃ ts, bwtForward xs = (ts, sa.idxOf 0) ∧ sa.map (lastSymbol (extended xs)) = lastColumn ts (sa.idxOf 0)
      ∧ ts.length = xs.length ∧ ts.Perm xs ∧ sa.idxOf 0 < xs.length := by
  obtain ⟨ts, hts, hcolumn, hlen⟩ := h.lastColumn_exists
  have hne : xs ≠ [] := fun hnil => hnot (hnil ▸ fun _ hx => nomatch hx)
  refine ⟨ts, ?_, hcolumn, hlen, h.perm_of_lastColumn hcolumn, h.identity_lt hne⟩
  rw [bwtForward, if_neg (mt isConstant_iff.mp hnot)]
  simp only [h.eq_sortedRows]
  exact Prod.ext hts rfl

/-- The rows of a constant block rise as they stand. -/
theorem bwtRow_lt_of_constant {xs : List Nat} (h : ConstantBlock xs) {i k : Nat} (hik : i < k) (hk : k ≤ xs.length) :
    bwtRow xs i < bwtRow xs k := by
  have hnext : ∀ d i, i + d + 1 = xs.length → bwtRow xs i < bwtRow xs (i + 1) := by
    intro d
    induction d with
    | zero => exact fun i hi => by rw [Nat.add_zero] at hi; rw [hi]; exact bwtRow_lt_last (by omega)
    | succ d ih =>
      intro i hi
      refine (bwtRow_lt_iff (by omega) (by omega)).mpr (.inr ⟨?_, ih (i + 1) (by omega)⟩)
      rw [symbolAt_of_lt (by omega), symbolAt_of_lt (by omega), h _ (List.getElem_mem _) _ (List.getElem_mem _)]
  induction k, hik using Nat.le_induction with
  | base => exact hnext (xs.length - i - 1) i (by omega)
  | succ k hik ih => exact (ih (by omega)).trans (hnext (xs.length - k - 1) k (by omega))

theorem rowsSorted_of_constant {xs : List Nat} (h : ConstantBlock xs) : RowsSorted xs (List.range (xs.length + 1)) :=
  ⟨.refl _, List.pairwise_lt_range.imp_of_mem fun _ hk hik =>
    bwtRow_lt_of_constant h hik (Nat.le_of_lt_succ (List.mem_range.mp hk))⟩

/-- Settles O38: the sorted rows, which for a constant block are the rows as they stand. -/
theorem bwtForwardSortsRows : Obligations.BwtForwardSortsRows := by
  unfold Obligations.BwtForwardSortsRows
  refine ⟨rfl, fun xs hne => ?_⟩
  by_cases hconst : ConstantBlock xs
  · obtain ⟨hperm, hsorted⟩ := rowsSorted_of_constant hconst
    rw [bwtForward_of_constant hconst]
    refine ⟨_, hperm, hsorted, List.length_pos_iff.mpr hne, List.getElem?_range (Nat.succ_pos _), rfl, fun r i hr => ?_⟩
    obtain ⟨hlt, hval⟩ := List.getElem?_eq_some_iff.mp hr
    rw [List.getElem_range] at hval
    rw [if_neg (Nat.not_lt_zero r), hval, Nat.add_sub_cancel]
  · have hrows := rowsSorted_sortedRows xs
    obtain ⟨ts, hforward, hcolumn, hlen, -, hp⟩ := bwtForward_spec hrows hconst
    rw [hforward]
    refine ⟨_, hrows.1, hrows.2, hp, hrows.getElem?_idxOf (Nat.zero_le _), hlen, fun r i hr => ?_⟩
    have hle : i + 1 ≤ xs.length := hrows.mem.mp (List.mem_of_getElem? hr)
    have hne : r ≠ (sortedRows (extended xs)).idxOf 0 := fun heq => by
      rw [heq, hrows.getElem?_idxOf (Nat.zero_le _)] at hr
      exact Nat.succ_ne_zero i (Option.some.inj hr).symm
    have hcell := getElem?_lastColumn_of_ne (ts := ts) (by omega) hne
    rw [← hcolumn, List.getElem?_map, hr, Option.map_some, lastSymbol_succ, symbolAt_of_lt hle, eq_comm,
      Option.map_eq_some_iff] at hcell
    obtain ⟨x, hx, hsome⟩ := hcell
    rw [hx, List.getElem?_eq_getElem hle, Option.some.inj hsome]

/-! ### The inverse transform (R227, R228) -/

/-- The order in which the inverse sorts the rows: by the last column, then by number. -/
def columnKey (lc : List Symbol) (r : Nat) : Lex (WithTop Nat × Nat) := toLex (symKey (lc.getD r none), r)

theorem columnRel_iff (lc : List Symbol) (r q : Nat) : (symbolLt (lc.getD r none) (lc.getD q none) = true
    ∨ (lc.getD r none = lc.getD q none ∧ r ≤ q)) ↔ columnKey lc r ≤ columnKey lc q := by
  rw [Prod.Lex.le_iff, symbolLt_iff, ← symKey_inj]
  rfl

theorem columnKey_lt_iff {lc : List Symbol} {r q : Nat} : columnKey lc r < columnKey lc q ↔
    symKey (lc.getD r none) < symKey (lc.getD q none) ∨ (lc.getD r none = lc.getD q none ∧ r < q) := by
  rw [Prod.Lex.lt_iff, ← symKey_inj]
  rfl

theorem inverseRows_spec (lc : List Symbol) : (inverseRows lc).Perm (List.range lc.length)
    ∧ (inverseRows lc).Pairwise (fun r q => columnKey lc r < columnKey lc q) := by
  rw [inverseRows]
  refine ⟨List.perm_insertionSort _ _, strict_insertionSort (columnRel_iff lc) List.nodup_range fun r _ q _ h => ?_⟩
  exact (Prod.ext_iff.mp (toLex.injective h)).2

/-- The row that begins one symbol later; after the last, the identity row. -/
def nextRow (xs : List Nat) (i : Nat) : Nat := if i = xs.length then 0 else i + 1

theorem nextRow_le {xs : List Nat} {i : Nat} (h : i ≤ xs.length) : nextRow xs i ≤ xs.length := by
  rw [nextRow]
  split_ifs <;> omega

theorem lastSymbol_nextRow (xs : List Nat) (i : Nat) : lastSymbol (extended xs) (nextRow xs i) = symbolAt xs i := by
  rw [nextRow]
  split_ifs with hend
  · rw [lastSymbol_zero, hend, symbolAt_length]
  · exact lastSymbol_succ xs i

section
variable {xs sa : List Nat} (h : RowsSorted xs sa)
include h

/-- What a mapping of the sorted rows has at the rank of a row. -/
theorem RowsSorted.getD_map_idxOf {α : Type} (f : Nat → α) (d : α) {i : Nat} (hi : i ≤ xs.length) :
    (sa.map f).getD (sa.idxOf i) d = f i := by
  rw [List.getD_eq_getElem?_getD, List.getElem?_map, h.getElem?_idxOf hi, Option.map_some, Option.getD_some]

/-- Sorting the last column stably ranks, in the order of the rows, the rows after them. -/
theorem RowsSorted.inverseRows_eq : inverseRows (sa.map (lastSymbol (extended xs))) =
    sa.map (fun i => sa.idxOf (nextRow xs i)) := by
  have hsorted : (sa.map (fun i => sa.idxOf (nextRow xs i))).Pairwise
      (fun r q => columnKey (sa.map (lastSymbol (extended xs))) r < columnKey (sa.map (lastSymbol (extended xs))) q) := by
    refine List.pairwise_map.mpr (h.2.imp_of_mem fun {i k} hi hk hlt => ?_)
    rw [h.mem] at hi hk
    rw [columnKey_lt_iff, h.getD_map_idxOf _ _ (nextRow_le hi), h.getD_map_idxOf _ _ (nextRow_le hk),
      lastSymbol_nextRow, lastSymbol_nextRow]
    refine ((bwtRow_lt_iff hi hk).mp hlt).imp id fun ⟨hsame, hrest⟩ => ⟨hsame, ?_⟩
    have hne : i ≠ k := fun heq => lt_irrefl _ (heq ▸ hlt)
    have hilt : i ≠ xs.length := fun hend => by
      rw [hend, symbolAt_length, eq_comm, symbolAt_eq_none hk] at hsame
      omega
    have hklt : k ≠ xs.length := fun hend => by
      rw [hend, symbolAt_length, symbolAt_eq_none hi] at hsame
      omega
    rw [nextRow, if_neg hilt, nextRow, if_neg hklt]
    exact idxOf_lt_idxOf h.2 (h.mem.mpr (by omega)) (h.mem.mpr (by omega)) hrest
  have hperm : (sa.map (fun i => sa.idxOf (nextRow xs i))).Perm
      (List.range (sa.map (lastSymbol (extended xs))).length) := by
    refine perm_range_of_nodup (hsorted.imp fun hlt => ne_of_apply_ne (columnKey _) (ne_of_lt hlt)) (fun r hr => ?_) (by simp)
    obtain ⟨i, hi, rfl⟩ := List.mem_map.mp hr
    rw [List.length_map, h.length]
    exact h.idxOf_lt (nextRow_le (h.mem.mp hi))
  exact insertionSort_eq_of_strict (columnRel_iff _) hperm hsorted

/-- The first column. -/
theorem RowsSorted.firstColumn_eq : (inverseRows (sa.map (lastSymbol (extended xs)))).map
    (fun r => (sa.map (lastSymbol (extended xs))).getD r none) = sa.map (symbolAt xs) := by
  rw [h.inverseRows_eq, List.map_map]
  refine List.map_congr_left fun i hi => ?_
  rw [Function.comp_apply, h.getD_map_idxOf _ _ (nextRow_le (h.mem.mp hi)), lastSymbol_nextRow]

/-- The walk from the rank of row `i` gives the block from `i` on. -/
theorem RowsSorted.inverseWalk_eq (p : Nat) {i k : Nat} (hik : i + k = xs.length) :
    inverseWalk (sa.map (symbolAt xs)) (sa.map (fun i => sa.idxOf (nextRow xs i))) p k (sa.idxOf i) =
      .ok (xs.drop i) := by
  induction k generalizing i with
  | zero =>
    rw [inverseWalk, h.getD_map_idxOf _ _ (by omega), show i = xs.length by omega, symbolAt_length, List.drop_length]
  | succ k ih =>
    have hi : i < xs.length := by omega
    rw [inverseWalk, h.getD_map_idxOf _ _ (by omega), symbolAt_of_lt hi, h.getD_map_idxOf _ _ (by omega), nextRow,
      if_neg (Nat.ne_of_lt hi), ih (by omega), List.drop_eq_getElem_cons hi]

end

theorem ConstantBlock.of_perm {xs ts : List Nat} (h : ConstantBlock xs) (hperm : ts.Perm xs) : ConstantBlock ts :=
  fun x hx y hy => h x (hperm.mem_iff.mp hx) y (hperm.mem_iff.mp hy)

theorem bwtInverse_of_constant {ts : List Nat} (h : ConstantBlock ts) (p : Nat) : bwtInverse ts p = .ok ts :=
  if_pos (isConstant_iff.mpr h)

theorem bwtInverse_of_le {ts : List Nat} {p : Nat} (h : ¬ ConstantBlock ts) (hp : ts.length ≤ p) :
    bwtInverse ts p = .error ⟨.eBwtIndex, p⟩ := by
  rw [bwtInverse, if_neg (mt isConstant_iff.mp h), if_pos hp]

theorem bwtInverse_of_lt {ts : List Nat} {p : Nat} (h : ¬ ConstantBlock ts) (hp : p < ts.length) :
    bwtInverse ts p = inverseWalk ((inverseRows (lastColumn ts p)).map (fun r => (lastColumn ts p).getD r none))
      (inverseRows (lastColumn ts p)) p ts.length p := by
  rw [bwtInverse, if_neg (mt isConstant_iff.mp h), if_neg (Nat.not_le.mpr hp)]
  rfl

theorem bwtForward_perm (xs : List Nat) : (bwtForward xs).1.Perm xs := by
  by_cases hconst : ConstantBlock xs
  · rw [bwtForward_of_constant hconst]
  · obtain ⟨ts, hforward, -, -, hperm, -⟩ := bwtForward_spec (rowsSorted_sortedRows xs) hconst
    rwa [hforward]

/-- Decoding what was encoded (R233). -/
theorem bwtInverse_bwtForward (xs : List Nat) : bwtInverse (bwtForward xs).1 (bwtForward xs).2 = .ok xs := by
  by_cases hconst : ConstantBlock xs
  · rw [bwtForward_of_constant hconst]
    exact bwtInverse_of_constant hconst 0
  · have hrows := rowsSorted_sortedRows xs
    obtain ⟨ts, hforward, hcolumn, hlen, hperm, hp⟩ := bwtForward_spec hrows hconst
    rw [hforward, bwtInverse_of_lt (fun h => hconst (h.of_perm hperm.symm)) (hlen ▸ hp), ← hcolumn, hrows.firstColumn_eq,
      hrows.inverseRows_eq, hlen, hrows.inverseWalk_eq _ (Nat.zero_add _), List.drop_zero]

theorem blockMin_of_perm {xs ts : List Nat} (h : ts.Perm xs) : blockMin ts = blockMin xs := by
  by_cases hne : xs = []
  · subst hne
    rw [h.eq_nil]
  · exact blockMin_eq (h.mem_iff.mpr (blockMin_mem hne)) fun x hx => blockMin_le (h.mem_iff.mp hx)

theorem blockMax_of_perm {xs ts : List Nat} (h : ts.Perm xs) : blockMax ts = blockMax xs := by
  by_cases hne : xs = []
  · subst hne
    rw [h.eq_nil]
  · exact blockMax_eq (h.mem_iff.mpr (blockMax_mem hne)) fun x hx => le_blockMax (h.mem_iff.mp hx)

/-- Settles O41. -/
theorem bwtRoundTrip : Obligations.BwtRoundTrip := by
  unfold Obligations.BwtRoundTrip
  intro xs
  have hperm := bwtForward_perm xs
  exact ⟨bwtInverse_bwtForward xs, hperm, blockMin_of_perm hperm, blockMax_of_perm hperm, fun h => h.of_perm hperm.symm⟩

/-! ### What the inverse accepts (R228, R234) -/

/-- The row that the walk reaches after `i` steps. -/
def walkRow (psi : List Nat) (i r : Nat) : Nat := (fun q => psi.getD q 0)^[i] r

theorem walkRow_succ (psi : List Nat) (i r : Nat) : walkRow psi (i + 1) r = psi.getD (walkRow psi i r) 0 :=
  Function.iterate_succ_apply' _ i r

theorem walkRow_add (psi : List Nat) (j i r : Nat) : walkRow psi (j + i) r = walkRow psi j (walkRow psi i r) :=
  Function.iterate_add_apply _ j i r

/-- A walk that closes gives the symbols on its way, and ends at `EOB`. -/
theorem inverseWalk_ok {f : List Symbol} {psi : List Nat} {p k r : Nat} {xs : List Nat}
    (h : inverseWalk f psi p k r = .ok xs) : xs.length = k ∧ ∀ i ≤ k, f.getD (walkRow psi i r) none = xs[i]? := by
  induction k generalizing r xs with
  | zero =>
    rw [inverseWalk] at h
    cases hf : f.getD r none with
    | some v => rw [hf] at h; cases h
    | none =>
      rw [hf] at h
      obtain rfl := Except.ok.inj h
      exact ⟨rfl, fun i hi => by rw [Nat.le_zero.mp hi]; exact hf⟩
  | succ k ih =>
    rw [inverseWalk] at h
    cases hf : f.getD r none with
    | none => rw [hf] at h; cases h
    | some v =>
      cases hwalk : inverseWalk f psi p k (psi.getD r 0) with
      | error e => rw [hf, hwalk] at h; cases h
      | ok ys =>
        rw [hf, hwalk] at h
        obtain rfl := Except.ok.inj h
        obtain ⟨hlen, hsymbols⟩ := ih hwalk
        refine ⟨by rw [List.length_cons, hlen], fun i hi => ?_⟩
        cases i with
        | zero => exact hf
        | succ i =>
          rw [List.getElem?_cons_succ, ← hsymbols i (Nat.le_of_succ_le_succ hi)]
          rfl

theorem inverseWalk_error {f : List Symbol} {psi : List Nat} {p k r : Nat} {e : Raised}
    (h : inverseWalk f psi p k r = .error e) : e = ⟨.eBwtIndex, p⟩ := by
  induction k generalizing r with
  | zero =>
    rw [inverseWalk] at h
    cases hf : f.getD r none with
    | none => rw [hf] at h; cases h
    | some v => rw [hf] at h; exact (Except.error.inj h).symm
  | succ k ih =>
    rw [inverseWalk] at h
    cases hf : f.getD r none with
    | none => rw [hf] at h; exact (Except.error.inj h).symm
    | some v =>
      cases hwalk : inverseWalk f psi p k (psi.getD r 0) with
      | error e' =>
        rw [hf, hwalk] at h
        exact ih (Except.error.inj h ▸ hwalk)
      | ok ys => rw [hf, hwalk] at h; cases h

/-- A walk over the stably sorted last column `lc` that gives the block `xs`. -/
structure ClosedWalk (lc : List Symbol) (p : Nat) (xs : List Nat) : Prop where
  /-- The column has a symbol for every row. -/
  length : lc.length = xs.length + 1
  /-- The walk begins in a row. -/
  start_le : p ≤ xs.length
  /-- The symbols on its way, `EOB` last. -/
  symbols : ∀ i ≤ xs.length, ((inverseRows lc).map (fun r => lc.getD r none)).getD (walkRow (inverseRows lc) i p) none =
    symbolAt xs i

section
variable {lc : List Symbol} {p : Nat} {xs : List Nat} (h : ClosedWalk lc p xs)
include h

theorem ClosedWalk.perm : (inverseRows lc).Perm (List.range (xs.length + 1)) := h.length ▸ (inverseRows_spec lc).1

theorem ClosedWalk.length_inverseRows : (inverseRows lc).length = xs.length + 1 := by
  rw [h.perm.length_eq, List.length_range]

theorem ClosedWalk.row_le {i : Nat} : walkRow (inverseRows lc) i p ≤ xs.length := by
  induction i with
  | zero => exact h.start_le
  | succ i ih =>
    have hlt : walkRow (inverseRows lc) i p < (inverseRows lc).length := by rw [h.length_inverseRows]; omega
    rw [walkRow_succ, List.getD_eq_getElem _ _ hlt]
    have hmem := h.perm.mem_iff.mp (List.getElem_mem hlt)
    exact Nat.le_of_lt_succ (List.mem_range.mp hmem)

/-- The last column at the row after row `i`. -/
theorem ClosedWalk.column_succ {i : Nat} (hi : i ≤ xs.length) :
    lc.getD (walkRow (inverseRows lc) (i + 1) p) none = symbolAt xs i := by
  have hrow := h.row_le (i := i)
  have hlt : walkRow (inverseRows lc) i p < (inverseRows lc).length := by rw [h.length_inverseRows]; omega
  have hlt' : walkRow (inverseRows lc) i p < ((inverseRows lc).map (fun r => lc.getD r none)).length := by
    rwa [List.length_map]
  rw [← h.symbols i hi, walkRow_succ, List.getD_eq_getElem _ _ hlt, List.getD_eq_getElem _ _ hlt', List.getElem_map]

/-- The walk meets no row twice. -/
theorem ClosedWalk.row_inj {i k : Nat} (hi : i ≤ xs.length) (hk : k ≤ xs.length)
    (heq : walkRow (inverseRows lc) i p = walkRow (inverseRows lc) k p) : i = k := by
  have hlater : ∀ {i k : Nat}, i < k → k ≤ xs.length →
      walkRow (inverseRows lc) i p ≠ walkRow (inverseRows lc) k p := fun {i k} hik hk heq => by
    have hend : walkRow (inverseRows lc) (xs.length - k + i) p = walkRow (inverseRows lc) (xs.length - k + k) p := by
      rw [walkRow_add, walkRow_add, heq]
    have hsymbol := h.symbols (xs.length - k + i) (by omega)
    rw [hend, h.symbols _ (by omega), show xs.length - k + k = xs.length by omega, symbolAt_length, eq_comm,
      symbolAt_eq_none (by omega)] at hsymbol
    omega
  obtain hlt | rfl | hgt := Nat.lt_trichotomy i k
  · exact absurd heq (hlater hlt hk)
  · rfl
  · exact absurd heq.symm (hlater hgt hi)

/-- The walk meets the rows of the block in their order. -/
theorem ClosedWalk.rows_rise {i k : Nat} (hi : i ≤ xs.length) (hk : k ≤ xs.length)
    (hlt : walkRow (inverseRows lc) i p < walkRow (inverseRows lc) k p) : bwtRow xs i < bwtRow xs k := by
  obtain ⟨d, hd⟩ : ∃ d, i + d = xs.length := ⟨xs.length - i, by omega⟩
  induction d generalizing i k with
  | zero =>
    have hkrow := h.row_le (i := k)
    have hrise := List.pairwise_iff_getElem.mp (inverseRows_spec lc).2 _ _ (by rw [h.length_inverseRows]; omega)
      (by rw [h.length_inverseRows]; omega) hlt
    rw [← List.getD_eq_getElem _ 0, ← List.getD_eq_getElem _ 0, ← walkRow_succ, ← walkRow_succ, columnKey_lt_iff,
      h.column_succ hi, h.column_succ hk, show i = xs.length by omega, symbolAt_length, eq_comm (a := none),
      symbolAt_eq_none hk] at hrise
    obtain htop | ⟨hend, -⟩ := hrise
    · exact absurd htop (not_lt_of_ge le_top)
    · rw [show i = k by omega] at hlt
      exact absurd hlt (Nat.lt_irrefl _)
  | succ d ih =>
    have hkrow := h.row_le (i := k)
    have hrise := List.pairwise_iff_getElem.mp (inverseRows_spec lc).2 _ _ (by rw [h.length_inverseRows]; omega)
      (by rw [h.length_inverseRows]; omega) hlt
    rw [← List.getD_eq_getElem _ 0, ← List.getD_eq_getElem _ 0, ← walkRow_succ, ← walkRow_succ, columnKey_lt_iff,
      h.column_succ hi, h.column_succ hk] at hrise
    refine (bwtRow_lt_iff hi hk).mpr (hrise.imp id fun ⟨hsame, hnext⟩ => ⟨hsame, ?_⟩)
    have hklt : k ≠ xs.length := fun hend => by
      rw [hend, symbolAt_length, symbolAt_eq_none hi] at hsame
      omega
    exact ih (by omega) (by omega) hnext (by omega)

/-- The rows in the order of the walk. -/
theorem ClosedWalk.perm_rows :
    ((List.range (xs.length + 1)).map (fun i => walkRow (inverseRows lc) i p)).Perm (List.range (xs.length + 1)) := by
  refine perm_range_of_nodup (List.Nodup.map_on (fun i hi k hk => ?_) List.nodup_range) (fun r hr => ?_) (by simp)
  · rw [List.mem_range] at hi hk
    exact h.row_inj (by omega) (by omega)
  · obtain ⟨i, -, rfl⟩ := List.mem_map.mp hr
    exact Nat.lt_succ_of_le h.row_le

theorem ClosedWalk.exists_row {k : Nat} (hk : k ≤ xs.length) :
    ∃ i ≤ xs.length, walkRow (inverseRows lc) i p = k := by
  have hmem := h.perm_rows.mem_iff.mpr (List.mem_range.mpr (Nat.lt_succ_of_le hk))
  obtain ⟨i, hi, hrow⟩ := List.mem_map.mp hmem
  exact ⟨i, Nat.le_of_lt_succ (List.mem_range.mp hi), hrow⟩

/-- So the sorted rows of the block have `lc` as their last column (R233 read backwards). -/
theorem ClosedWalk.rowsSorted (hp : lc.getD p none = none) : ∃ sa, RowsSorted xs sa ∧ sa[p]? = some 0
    ∧ sa.map (lastSymbol (extended xs)) = lc := by
  have hplace : ∀ k ≤ xs.length, ∃ i ≤ xs.length, walkRow (inverseRows lc) i p = k := fun k hk => h.exists_row hk
  choose! place hplace_le hplace_row using hplace
  have hget : ∀ k ≤ xs.length, ((List.range (xs.length + 1)).map place)[k]? = some (place k) := fun k hk => by
    rw [List.getElem?_map, List.getElem?_range (Nat.lt_succ_of_le hk), Option.map_some]
  have hrise : ((List.range (xs.length + 1)).map place).Pairwise (fun i k => bwtRow xs i < bwtRow xs k) := by
    refine List.pairwise_map.mpr (List.pairwise_lt_range.imp_of_mem fun {k k'} hk hk' hlt => ?_)
    rw [List.mem_range, Nat.lt_succ_iff] at hk hk'
    refine h.rows_rise (hplace_le k hk) (hplace_le k' hk') ?_
    rwa [hplace_row k hk, hplace_row k' hk']
  refine ⟨(List.range (xs.length + 1)).map place, ⟨perm_range_of_nodup
    (hrise.imp fun hlt => ne_of_apply_ne (bwtRow xs) (ne_of_lt hlt)) (fun i hi => ?_) (by simp), hrise⟩, ?_, ?_⟩
  · obtain ⟨k, hk, rfl⟩ := List.mem_map.mp hi
    exact Nat.lt_succ_of_le (hplace_le k (Nat.le_of_lt_succ (List.mem_range.mp hk)))
  · rw [hget p h.start_le, h.row_inj (hplace_le p h.start_le) (Nat.zero_le _) (hplace_row p h.start_le)]
  · refine List.ext_getElem? fun k => ?_
    by_cases hk : k ≤ xs.length
    · have hcell : lc[k]? = some (lc.getD k none) := by
        have hlt : k < lc.length := by rw [h.length]; omega
        rw [List.getD_eq_getElem _ _ hlt, List.getElem?_eq_getElem hlt]
      rw [List.getElem?_map, hget k hk, Option.map_some, hcell, ← hplace_row k hk, h.row_inj (hplace_le _ h.row_le)
        (hplace_le k hk) (hplace_row _ h.row_le)]
      cases hi : place k with
      | zero => exact congrArg some ((lastSymbol_zero xs).trans hp.symm)
      | succ i =>
        have hle := hplace_le k hk
        rw [lastSymbol_succ, h.column_succ (by omega)]
    · rw [List.getElem?_eq_none (by simp; omega), List.getElem?_eq_none (by rw [h.length]; omega)]

end

theorem bwtForward_of_bwtInverse {ts xs : List Nat} {p : Nat} (hnot : ¬ ConstantBlock ts) (h : bwtInverse ts p = .ok xs) :
    bwtForward xs = (ts, p) := by
  obtain hp | hp := Nat.lt_or_ge p ts.length
  · rw [bwtInverse_of_lt hnot hp] at h
    obtain ⟨hlen, hsymbols⟩ := inverseWalk_ok h
    have hwalk : ClosedWalk (lastColumn ts p) p xs :=
      ⟨by rw [length_lastColumn, hlen], by omega, fun i hi => by
        rw [hsymbols i (hlen ▸ hi), symbolAt_eq_getElem? hi]⟩
    obtain ⟨sa, hrows, hfirst, hcolumn⟩ := hwalk.rowsSorted (getD_lastColumn (Nat.le_of_lt hp))
    have hperm := hrows.perm_of_lastColumn hcolumn
    obtain ⟨ts', hforward, hcolumn', hlen', -⟩ := bwtForward_spec hrows fun hconst => hnot (hconst.of_perm hperm)
    rw [← hrows.getElem?_eq_zero hfirst] at hforward hcolumn'
    rw [hforward, ← reduceOption_whole_lastColumn ts' p, ← hcolumn', hcolumn, reduceOption_whole_lastColumn]
  · rw [bwtInverse_of_le hnot hp] at h
    cases h

/-- Settles O42: the closed walk sorts the rows of what it gives. -/
theorem bwtInverseAcceptsOnlyImages : Obligations.BwtInverseAcceptsOnlyImages := by
  unfold Obligations.BwtInverseAcceptsOnlyImages
  exact fun ts xs p hnot h => bwtForward_of_bwtInverse hnot h

/-- What the inverse raises. -/
theorem bwtInverse_error {ts : List Nat} {p : Nat} {e : Raised} (h : bwtInverse ts p = .error e) : e = ⟨.eBwtIndex, p⟩ := by
  by_cases hconst : ConstantBlock ts
  · rw [bwtInverse_of_constant hconst] at h
    cases h
  · obtain hp | hp := Nat.lt_or_ge p ts.length
    · rw [bwtInverse_of_lt hconst hp] at h
      exact inverseWalk_error h
    · rw [bwtInverse_of_le hconst hp] at h
      exact (Except.error.inj h).symm

/-- A pair that is the image of no block is reported. -/
theorem bwtInverse_of_no_image {ts : List Nat} {p : Nat} (hnot : ¬ ConstantBlock ts)
    (hnone : ∀ xs, xs.Perm ts → bwtForward xs ≠ (ts, p)) : bwtInverse ts p = .error ⟨.eBwtIndex, p⟩ := by
  cases h : bwtInverse ts p with
  | error e => rw [bwtInverse_error h]
  | ok xs =>
    have hforward := bwtForward_of_bwtInverse hnot h
    have hperm := bwtForward_perm xs
    rw [hforward] at hperm
    exact absurd hforward (hnone xs hperm.symm)

/-! ### The commands -/

/-- Settles O39. -/
theorem bwtfDelivers : Obligations.BwtfDelivers := by
  unfold Obligations.BwtfDelivers
  intro s hready
  have hexec : exec .bwtf s = s.finishBulk (s.typedChecks s.typedBytes) (fun _ =>
      .ok { plainResult (serialize s.ew.toNat (bwtForward s.inElems).1) with pidx := some (bwtForward s.inElems).2 }) := rfl
  have hchecks : s.typedChecks s.typedBytes = .ok () := State.typedChecks_ok.mpr hready
  have hsize : (serialize s.ew.toNat (bwtForward s.inElems).1).length = s.len.toNat * s.ew.toNat := by
    rw [length_serialize, (bwtForward_perm _).length_eq, State.inElems, State.length_readElems]
  exact ⟨fun hcap => State.delivers hexec hchecks rfl hsize hcap, fun hcap => State.raisesCap hexec hchecks rfl hsize hcap⟩

/-- Settles O40. -/
theorem bwtiDelivers : Obligations.BwtiDelivers := by
  unfold Obligations.BwtiDelivers
  intro s ts hready hts
  have hexec : exec .bwti s = s.finishBulk (s.typedChecks s.typedBytes) (fun _ => do
      let xs ← bwtInverse ts s.pidx.toNat
      return plainResult (serialize s.ew.toNat xs)) := by rw [hts]; rfl
  have hchecks : s.typedChecks s.typedBytes = .ok () := State.typedChecks_ok.mpr hready
  have hlen : ts.length = s.len.toNat := by rw [hts, State.length_readElems]
  refine ⟨fun xs hxs => ?_, fun hnot hbad => State.raises hexec hchecks (bind_of_error ?_ _)⟩
  · have hinverse : bwtInverse ts s.pidx.toNat = .ok xs ∧ xs.length = s.len.toNat := by
      obtain hforward | ⟨hconst, rfl⟩ := hxs
      · have hround := bwtInverse_bwtForward xs
        have hperm := bwtForward_perm xs
        rw [hforward] at hround hperm
        exact ⟨hround, hperm.length_eq.symm.trans hlen⟩
      · exact ⟨bwtInverse_of_constant hconst _, hlen⟩
    obtain ⟨hinverse, hlen⟩ := hinverse
    have hsize : (serialize s.ew.toNat xs).length = s.len.toNat * s.ew.toNat := by rw [length_serialize, hlen]
    exact ⟨fun hcap => State.delivers hexec hchecks (pure_bind_ok hinverse _) hsize hcap,
      fun hcap => State.raisesCap hexec hchecks (pure_bind_ok hinverse _) hsize hcap⟩
  · obtain hlong | hnone := hbad
    · exact bwtInverse_of_le hnot (hlen ▸ hlong)
    · exact bwtInverse_of_no_image hnot hnone

end Sys2Proof.Machine


/-! PROOFS. The block compressor (49_block_container.md R350 to R362): what each stage gives, the block header as bytes and as
fields, and a block expanded back to the elements it was compressed from. -/

namespace Sys2Proof.Machine

/-! ### Codecs and stages -/

theorem codecOf_cases {codec : BitVec 3} {c : Codec} (h : codecOf codec = some c) :
    (codec = 0 ∧ c = .none) ∨ (codec = 1 ∧ c = .rle) ∨ (codec = 2 ∧ c = .huffman) ∨ (codec = 5 ∧ c = .lzw) := by
  have hall : ∀ codec : BitVec 3, codecOf codec = Option.none ∨ (codec = 0 ∧ codecOf codec = some .none)
      ∨ (codec = 1 ∧ codecOf codec = some .rle) ∨ (codec = 2 ∧ codecOf codec = some .huffman)
      ∨ (codec = 5 ∧ codecOf codec = some .lzw) := by decide
  obtain hnone | ⟨hcodec, hc⟩ | ⟨hcodec, hc⟩ | ⟨hcodec, hc⟩ | ⟨hcodec, hc⟩ := hall codec
  · rw [hnone] at h; cases h
  · exact .inl ⟨hcodec, Option.some.inj (h.symm.trans hc)⟩
  · exact .inr (.inl ⟨hcodec, Option.some.inj (h.symm.trans hc)⟩)
  · exact .inr (.inr (.inl ⟨hcodec, Option.some.inj (h.symm.trans hc)⟩))
  · exact .inr (.inr (.inr ⟨hcodec, Option.some.inj (h.symm.trans hc)⟩))

theorem exists_codecOf {codec : BitVec 3} (h : codec = 0 ∨ codec = 1 ∨ codec = 2 ∨ codec = 5) :
    ∃ c, codecOf codec = some c := by
  obtain rfl | rfl | rfl | rfl := h
  exacts [⟨.none, rfl⟩, ⟨.rle, rfl⟩, ⟨.huffman, rfl⟩, ⟨.lzw, rfl⟩]

theorem codecPads_iff {codec : BitVec 3} {c : Codec} (h : codecOf codec = some c) :
    codecPads c = true ↔ codec = 2 ∨ codec = 5 := by
  rw [codecPads_of_codecOf h, Bool.or_eq_true, beq_iff_eq, beq_iff_eq]

/-- What the codec stage gives, by the number of the codec. -/
theorem stageCodec_ok {codec : BitVec 3} {c : Codec} (h : codecOf codec = some c) {maxlen ew pad : Nat} {xs : List Nat}
    {pay : List Byte} (h0 : codec = 0 → pay = serialize ew xs) (h1 : codec = 1 → pay = rleEncode ew xs)
    (h2 : codec = 2 → hufEncode maxlen (serialize ew xs) = .ok (pay, pad))
    (h5 : codec = 5 → lzwEncode (serialize ew xs) = (pay, pad)) :
    stageCodec c maxlen ew xs = .ok (pay, if codec = 2 ∨ codec = 5 then some pad else none) := by
  obtain ⟨rfl, rfl⟩ | ⟨rfl, rfl⟩ | ⟨rfl, rfl⟩ | ⟨rfl, rfl⟩ := codecOf_cases h
  · rw [if_neg (by decide), h0 rfl]
    rfl
  · rw [if_neg (by decide), h1 rfl]
    rfl
  · rw [if_pos (by decide)]
    unfold stageCodec
    rw [h2 rfl]
  · have hstage : stageCodec .lzw maxlen ew xs =
        .ok ((lzwEncode (serialize ew xs)).1, some (lzwEncode (serialize ew xs)).2) := rfl
    rw [if_pos (by decide), hstage, h5 rfl]

theorem stageCodec_huffman_error {maxlen ew : Nat} {xs : List Nat} {e : Raised}
    (h : hufEncode maxlen (serialize ew xs) = .error e) : stageCodec .huffman maxlen ew xs = .error e := by
  unfold stageCodec
  rw [h]

/-- A block whose alphabet fits is encoded over it; the empty block has the bounds 0. -/
theorem mtfEncode_ok {amax : Nat} {xs : List Nat} (h : xs ≠ [] → blockMax xs - blockMin xs + 1 ≤ amax) :
    mtfEncode amax xs = .ok (mtfEncodeLoop (alphabet (blockMin xs) (blockMax xs)) xs, blockMin xs, blockMax xs) := by
  by_cases hne : xs = []
  · subst hne
    rfl
  · rw [mtfEncode_of_ne_nil hne, if_neg (Nat.not_lt.mpr (h hne))]

theorem stageMtf_ok {mtf : Bool} {amax : Nat} {xs : List Nat}
    (h : mtf = true → xs ≠ [] → blockMax xs - blockMin xs + 1 ≤ amax) : stageMtf mtf amax xs =
      .ok (if mtf then mtfEncodeLoop (alphabet (blockMin xs) (blockMax xs)) xs else xs,
        if mtf then some (blockMin xs, blockMax xs) else none) := by
  cases mtf with
  | false => rfl
  | true => rw [stageMtf, if_pos rfl, mtfEncode_ok (h rfl)]; rfl

theorem stageMtf_error {amax : Nat} {xs : List Nat} (hne : xs ≠ []) (h : amax < blockMax xs - blockMin xs + 1) :
    stageMtf true amax xs = .error ⟨.eMtfAlphabet, blockMax xs - blockMin xs + 1⟩ := by
  rw [stageMtf, if_pos rfl, mtfEncode_of_ne_nil hne, if_pos h]

theorem stageBwt_eq {bwt : Bool} {xs s1 : List Nat} {p : Nat} (h : (s1, p) = if bwt then bwtForward xs else (xs, 0)) :
    stageBwt bwt xs = (s1, if bwt then some p else none) := by
  cases bwt with
  | false =>
    obtain ⟨rfl, -⟩ := Prod.mk.inj h
    rfl
  | true =>
    have h : (s1, p) = bwtForward xs := h
    rw [stageBwt, if_pos rfl, ← h]
    rfl

/-! ### Compressing (R357) -/

section
variable {bwt mtf : Bool} {c : Codec} {amax maxlen ew : Nat} {xs : List Nat}

theorem blockCompress_long (h : blockFieldMax < xs.length * ew) :
    blockCompress bwt mtf c amax maxlen ew xs = .error ⟨.eResource, xs.length⟩ := by
  rw [blockCompress, check_bind]
  exact if_pos (decide_eq_true h)

variable (hlen : xs.length * ew ≤ blockFieldMax) {s1 : List Nat} {p : Option Nat} (hbwt : stageBwt bwt xs = (s1, p))
include hlen hbwt

theorem blockCompress_mtf_error {e : Raised} (h : stageMtf mtf amax s1 = .error e) :
    blockCompress bwt mtf c amax maxlen ew xs = .error e := by
  rw [blockCompress, check_bind, if_neg (by simpa using hlen)]
  simp only [hbwt, bind_of_error h]

variable {s2 : List Nat} {range : Option (Nat × Nat)} (hmtf : stageMtf mtf amax s1 = .ok (s2, range))
include hmtf

theorem blockCompress_codec_error {e : Raised} (h : stageCodec c maxlen ew s2 = .error e) :
    blockCompress bwt mtf c amax maxlen ew xs = .error e := by
  rw [blockCompress, check_bind, if_neg (by simpa using hlen)]
  simp only [hbwt, pure_bind_ok hmtf, bind_of_error h]

variable {pay : List Byte} {pad : Option Nat} (hcodec : stageCodec c maxlen ew s2 = .ok (pay, pad))
include hcodec

theorem blockCompress_payload (h : blockFieldMax < pay.length) :
    blockCompress bwt mtf c amax maxlen ew xs = .error ⟨.eResource, pay.length⟩ := by
  rw [blockCompress, check_bind, if_neg (by simpa using hlen)]
  simp only [hbwt, pure_bind_ok hmtf, pure_bind_ok hcodec, check_bind, decide_eq_true h, if_true]

theorem blockCompress_ok (h : pay.length ≤ blockFieldMax) : blockCompress bwt mtf c amax maxlen ew xs = .ok
    { out := blockHeader ew pay.length pad range p ++ pay
      used := none
      pidx := p
      vmin := range.map Prod.fst
      vmax := range.map Prod.snd
      padb := pad } := by
  rw [blockCompress, check_bind, if_neg (by simpa using hlen)]
  simp only [hbwt, pure_bind_ok hmtf, pure_bind_ok hcodec, check_bind, decide_eq_false (Nat.not_lt.mpr h)]
  rfl

end

/-- What a block that was compressed went through. -/
theorem blockCompress_inv {bwt mtf : Bool} {c : Codec} {amax maxlen ew : Nat} {xs : List Nat} {b : BulkResult}
    (h : blockCompress bwt mtf c amax maxlen ew xs = .ok b) : ∃ s2 range pay pad, xs.length * ew ≤ blockFieldMax
      ∧ stageMtf mtf amax (stageBwt bwt xs).1 = .ok (s2, range) ∧ stageCodec c maxlen ew s2 = .ok (pay, pad)
      ∧ pay.length ≤ blockFieldMax ∧ b = { out := blockHeader ew pay.length pad range (stageBwt bwt xs).2 ++ pay
                                           used := none
                                           pidx := (stageBwt bwt xs).2
                                           vmin := range.map Prod.fst
                                           vmax := range.map Prod.snd
                                           padb := pad } := by
  obtain hlong | hlen := Nat.lt_or_ge blockFieldMax (xs.length * ew)
  · rw [blockCompress_long hlong] at h
    cases h
  cases hmtf : stageMtf mtf amax (stageBwt bwt xs).1 with
  | error e => rw [blockCompress_mtf_error hlen rfl hmtf] at h; cases h
  | ok m =>
    cases hcodec : stageCodec c maxlen ew m.1 with
    | error e => rw [blockCompress_codec_error hlen rfl hmtf hcodec] at h; cases h
    | ok q =>
      obtain hlong | hpay := Nat.lt_or_ge blockFieldMax q.1.length
      · rw [blockCompress_payload hlen rfl hmtf hcodec hlong] at h
        cases h
      · rw [blockCompress_ok hlen rfl hmtf hcodec hpay] at h
        exact ⟨m.1, m.2, q.1, q.2, hlen, rfl, hcodec, hpay, (Except.ok.inj h).symm⟩

theorem blockHeader_eq (ew n pad mn mx q : Nat) (mtf bwt : Bool) (P : Prop) [Decidable P] :
    blockHeader ew n (if P then some pad else none) (if mtf then some (mn, mx) else none) (if bwt then some q else none) =
      leBytes 4 n ++ (if P then [BitVec.ofNat 8 pad] else []) ++ (if mtf then leBytes ew mn ++ leBytes ew mx else [])
        ++ (if bwt then leBytes 4 q else []) := by
  unfold blockHeader
  split_ifs <;> rfl

/-- Settles O58: the stages in their order. -/
theorem blkcDelivers : Obligations.BlkcDelivers := by
  unfold Obligations.BlkcDelivers
  intro s bwt mtf codec xs s1 s2 bytes p hcodec hready hxs hbwt hmtf hbytes
  obtain ⟨c, hc⟩ := exists_codecOf hcodec
  have hexec : exec (.blkc bwt mtf codec) s = s.finishBulk (s.typedChecks s.typedBytes)
      (fun _ => blockCompress bwt mtf c s.cfg.mtfAmax s.cfg.hufMaxlen s.ew.toNat xs) := by
    rw [hxs]
    exact exec_blkc hc
  have hchecks : s.typedChecks s.typedBytes = .ok () := State.typedChecks_ok.mpr hready
  have hlen : xs.length = s.len.toNat := by rw [hxs, State.length_readElems]
  have hbytes : bytes = serialize s.ew.toNat s2 := hbytes
  have hstage := stageBwt_eq hbwt
  rw [← hlen]
  refine ⟨fun hlong => State.raises hexec hchecks (blockCompress_long hlong), fun hshort => ⟨fun hon hne hbig => ?_,
    fun hfits => ⟨fun e hhuf he => ?_, fun pay pad h0 h1 h2 h5 => ?_⟩⟩⟩
  · subst hon
    exact State.raises hexec hchecks (blockCompress_mtf_error hshort hstage (stageMtf_error hne hbig))
  · have hrange := stageMtf_ok hfits
    rw [← hmtf] at hrange
    obtain ⟨h, -⟩ | ⟨h, -⟩ | ⟨-, rfl⟩ | ⟨h, -⟩ := codecOf_cases hc
    · exact absurd (hhuf.symm.trans h) (by decide)
    · exact absurd (hhuf.symm.trans h) (by decide)
    · exact State.raises hexec hchecks
        (blockCompress_codec_error hshort hstage hrange (stageCodec_huffman_error (hbytes ▸ he)))
    · exact absurd (hhuf.symm.trans h) (by decide)
  · have hrange := stageMtf_ok hfits
    rw [← hmtf] at hrange
    rw [hbytes] at h0 h2 h5
    have hstage' := stageCodec_ok hc h0 h1 h2 h5
    refine ⟨fun hlong => State.raises hexec hchecks (blockCompress_payload hshort hstage hrange hstage' hlong),
      fun hpay out hout => ?_⟩
    have hcompress := blockCompress_ok hshort hstage hrange hstage' hpay
    have hvmin : (if mtf then some (blockMin s1, blockMax s1) else none).map Prod.fst =
        if mtf then some (blockMin s1) else none := by split_ifs <;> rfl
    have hvmax : (if mtf then some (blockMin s1, blockMax s1) else none).map Prod.snd =
        if mtf then some (blockMax s1) else none := by split_ifs <;> rfl
    rw [blockHeader_eq, ← hout, hvmin, hvmax] at hcompress
    exact State.deliversOrCap hexec hchecks hcompress

/-! ### Expanding a payload (R360) -/

/-- What `BLKD` makes of a payload and the fields of the header. -/
def expandPayload (bwt mtf : Bool) (c : Codec) (amax maxlen ew hsize : Nat) (pay : List Byte) (pad mn mx p : Nat) :
    Except Raised BulkResult := do
  let s1 ← unstageCodec c maxlen ew pay pad
  let s2 ← unstageMtf mtf amax mn mx s1
  let s3 ← unstageBwt bwt p s2
  return {
    out := serialize ew s3
    used := some (hsize + pay.length)
    pidx := if bwt then some p else none
    vmin := if mtf then some mn else none
    vmax := if mtf then some mx else none
    padb := if codecPads c then some pad else none }

section
variable {bwt mtf : Bool} {c : Codec} {amax maxlen ew hsize : Nat} {pay : List Byte} {pad mn mx p : Nat} {s1 s2 : List Nat}

theorem expandPayload_codec_error {e : Raised} (h : unstageCodec c maxlen ew pay pad = .error e) :
    expandPayload bwt mtf c amax maxlen ew hsize pay pad mn mx p = .error e := bind_of_error h _

theorem expandPayload_mtf_error {e : Raised} (h1 : unstageCodec c maxlen ew pay pad = .ok s1)
    (h : unstageMtf mtf amax mn mx s1 = .error e) :
    expandPayload bwt mtf c amax maxlen ew hsize pay pad mn mx p = .error e := by
  rw [expandPayload, pure_bind_ok h1, bind_of_error h]

theorem expandPayload_bwt_error {e : Raised} (h1 : unstageCodec c maxlen ew pay pad = .ok s1)
    (h2 : unstageMtf mtf amax mn mx s1 = .ok s2) (h : unstageBwt bwt p s2 = .error e) :
    expandPayload bwt mtf c amax maxlen ew hsize pay pad mn mx p = .error e := by
  rw [expandPayload, pure_bind_ok h1, pure_bind_ok h2, bind_of_error h]

theorem expandPayload_ok {xs : List Nat} (h1 : unstageCodec c maxlen ew pay pad = .ok s1)
    (h2 : unstageMtf mtf amax mn mx s1 = .ok s2) (h3 : unstageBwt bwt p s2 = .ok xs) :
    expandPayload bwt mtf c amax maxlen ew hsize pay pad mn mx p = .ok
      { out := serialize ew xs
        used := some (hsize + pay.length)
        pidx := if bwt then some p else none
        vmin := if mtf then some mn else none
        vmax := if mtf then some mx else none
        padb := if codecPads c then some pad else none } := by
  rw [expandPayload, pure_bind_ok h1, pure_bind_ok h2, pure_bind_ok h3]
  rfl

/-- Fields of stages that are off do not count. -/
theorem expandPayload_congr {pad' mn' mx' p' : Nat} (hpad : codecPads c = true → pad = pad')
    (hmtf : mtf = true → mn = mn' ∧ mx = mx') (hbwt : bwt = true → p = p') :
    expandPayload bwt mtf c amax maxlen ew hsize pay pad mn mx p =
      expandPayload bwt mtf c amax maxlen ew hsize pay pad' mn' mx' p' := by
  have hcodec : unstageCodec c maxlen ew pay pad = unstageCodec c maxlen ew pay pad'
      ∧ (if codecPads c then some pad else none) = if codecPads c then some pad' else none := by
    cases hc : codecPads c with
    | true => rw [hpad hc]; exact ⟨rfl, rfl⟩
    | false =>
      cases c with
      | none | rle => exact ⟨rfl, rfl⟩
      | huffman | lzw => cases hc
  have hrange : unstageMtf mtf amax mn mx = unstageMtf mtf amax mn' mx'
      ∧ (if mtf then some mn else none) = (if mtf then some mn' else none)
      ∧ (if mtf then some mx else none) = if mtf then some mx' else none := by
    cases mtf with
    | true => obtain ⟨rfl, rfl⟩ := hmtf rfl; exact ⟨rfl, rfl, rfl⟩
    | false => exact ⟨rfl, rfl, rfl⟩
  have hindex : unstageBwt bwt p = unstageBwt bwt p'
      ∧ (if bwt then some p else none) = if bwt then some p' else none := by
    cases bwt with
    | true => obtain rfl := hbwt rfl; exact ⟨rfl, rfl⟩
    | false => exact ⟨rfl, rfl⟩
  rw [expandPayload, expandPayload, hcodec.1, hcodec.2, hrange.1, hrange.2.1, hrange.2.2, hindex.1, hindex.2]

end

section
variable {bwt mtf : Bool} {c : Codec} {amax maxlen ew : Nat} {b : List Byte}

theorem blockExpand_short (h : b.length < blockHeaderSize bwt mtf c ew) :
    blockExpand bwt mtf c amax maxlen ew b = .error ⟨.eBlkLen, blockHeaderSize bwt mtf c ew⟩ := by
  rw [blockExpand, check_bind]
  exact if_pos (decide_eq_true h)

theorem blockExpand_cut (hsize : blockHeaderSize bwt mtf c ew ≤ b.length)
    (h : b.length < blockHeaderSize bwt mtf c ew + (blockFields bwt mtf c ew b).complen) :
    blockExpand bwt mtf c amax maxlen ew b =
      .error ⟨.eBlkLen, blockHeaderSize bwt mtf c ew + (blockFields bwt mtf c ew b).complen⟩ := by
  rw [blockExpand, check_bind, if_neg (by simpa using hsize), check_bind]
  exact if_pos (decide_eq_true h)

theorem blockExpand_payload (h : blockHeaderSize bwt mtf c ew + (blockFields bwt mtf c ew b).complen ≤ b.length) :
    blockExpand bwt mtf c amax maxlen ew b = expandPayload bwt mtf c amax maxlen ew (blockHeaderSize bwt mtf c ew)
      ((b.drop (blockHeaderSize bwt mtf c ew)).take (blockFields bwt mtf c ew b).complen) (blockFields bwt mtf c ew b).pad
      (blockFields bwt mtf c ew b).mn (blockFields bwt mtf c ew b).mx (blockFields bwt mtf c ew b).p := by
  have hlen : ((b.drop (blockHeaderSize bwt mtf c ew)).take (blockFields bwt mtf c ew b).complen).length =
      (blockFields bwt mtf c ew b).complen := by
    rw [List.length_take, List.length_drop]
    omega
  rw [blockExpand, check_bind, if_neg (by simp; omega), check_bind, if_neg (by simpa using h), expandPayload, hlen]

end

/-! ### The stages backwards -/

theorem deserialize_serialize {ew : Nat} (hew : 0 < ew) {xs : List Nat} (hxs : ∀ x ∈ xs, x < 256 ^ ew) :
    deserialize ew (serialize ew xs) = .ok xs := by
  rw [deserialize, length_serialize, Nat.mul_mod_left, if_neg (by decide), Nat.mul_div_cancel _ hew,
    elements_serialize_of_lt hxs]

theorem deserialize_error {ew : Nat} {bytes : List Byte} (h : bytes.length % ew ≠ 0) :
    deserialize ew bytes = .error ⟨.eBlkAlign, bytes.length⟩ := if_pos h

section
variable {codec : BitVec 3} {c : Codec} (hc : codecOf codec = some c) {maxlen ew : Nat} {pay : List Byte} {pad : Nat}
include hc

theorem unstageCodec_error {e : Raised} (h : (codec = 1 ∧ pay.length % (1 + ew) ≠ 0 ∧ e = ⟨.eRleTrunc, pay.length⟩)
    ∨ (codec = 2 ∧ hufDecode maxlen pay pad = .error e) ∨ (codec = 5 ∧ lzwDecode pay pad = .error e)) :
    unstageCodec c maxlen ew pay pad = .error e := by
  obtain ⟨rfl, hmod, rfl⟩ | ⟨rfl, hhuf⟩ | ⟨rfl, hlzw⟩ := h
  · obtain rfl := Option.some.inj hc
    exact rleDecode_error hmod
  · obtain rfl := Option.some.inj hc
    exact bind_of_error hhuf _
  · obtain rfl := Option.some.inj hc
    exact bind_of_error hlzw _

theorem unstageCodec_align {bytes : List Byte} (h : (codec = 0 ∧ bytes = pay)
    ∨ (codec = 2 ∧ hufDecode maxlen pay pad = .ok bytes) ∨ (codec = 5 ∧ lzwDecode pay pad = .ok bytes))
    (hmod : bytes.length % ew ≠ 0) : unstageCodec c maxlen ew pay pad = .error ⟨.eBlkAlign, bytes.length⟩ := by
  obtain ⟨rfl, rfl⟩ | ⟨rfl, hhuf⟩ | ⟨rfl, hlzw⟩ := h
  · obtain rfl := Option.some.inj hc
    exact deserialize_error hmod
  · obtain rfl := Option.some.inj hc
    exact (pure_bind_ok hhuf _).trans (deserialize_error hmod)
  · obtain rfl := Option.some.inj hc
    exact (pure_bind_ok hlzw _).trans (deserialize_error hmod)

theorem unstageCodec_ok (hew : 0 < ew) {xs : List Nat} (h : PayloadHolds codec maxlen ew pay pad xs) :
    unstageCodec c maxlen ew pay pad = .ok xs := by
  obtain ⟨hxs, h0, h1, h2, h5⟩ := h
  obtain ⟨rfl, rfl⟩ | ⟨rfl, rfl⟩ | ⟨rfl, rfl⟩ | ⟨rfl, rfl⟩ := codecOf_cases hc
  · rw [h0 rfl]
    exact deserialize_serialize hew hxs
  · exact h1 rfl
  · exact (pure_bind_ok (h2 rfl) _).trans (deserialize_serialize hew hxs)
  · exact (pure_bind_ok (h5 rfl) _).trans (deserialize_serialize hew hxs)

/-- The payload of the codec stage holds its elements, with a padding count of one byte. -/
theorem payloadHolds_of_stageCodec {xs : List Nat} (hxs : ∀ x ∈ xs, x < 256 ^ ew) {pad : Option Nat}
    (h : stageCodec c maxlen ew xs = .ok (pay, pad)) : ∃ n ≤ 7, pad = (if codecPads c then some n else none)
      ∧ PayloadHolds codec maxlen ew pay n xs := by
  obtain ⟨rfl, rfl⟩ | ⟨rfl, rfl⟩ | ⟨rfl, rfl⟩ | ⟨rfl, rfl⟩ := codecOf_cases hc
  · have h : .ok (serialize ew xs, Option.none) = (.ok (pay, pad) : Except Raised _) := h
    obtain ⟨rfl, rfl⟩ := Prod.mk.inj (Except.ok.inj h)
    exact ⟨0, by decide, rfl, hxs, fun _ => rfl, nofun, nofun, nofun⟩
  · have h : .ok (rleEncode ew xs, Option.none) = (.ok (pay, pad) : Except Raised _) := h
    obtain ⟨rfl, rfl⟩ := Prod.mk.inj (Except.ok.inj h)
    exact ⟨0, by decide, rfl, hxs, nofun, fun _ => rleDecode_rleEncode hxs, nofun, nofun⟩
  · unfold stageCodec at h
    cases hencode : hufEncode maxlen (serialize ew xs) with
    | error e => rw [hencode] at h; cases h
    | ok q =>
      rw [hencode] at h
      obtain ⟨rfl, rfl⟩ := Prod.mk.inj (Except.ok.inj h)
      refine ⟨q.2, ?_, rfl, hxs, nofun, nofun, fun _ => huffmanRoundTrip _ _ _ _ hencode, nofun⟩
      by_cases hmax : hufMaxLen (hufTableFor ((serialize ew xs).map BitVec.toNat)) ≤ maxlen
      · rw [hufEncode_ok hmax] at hencode
        rw [← Except.ok.inj hencode]
        exact padCount_le _
      · rw [hufEncode_error (Nat.lt_of_not_le hmax)] at hencode
        cases hencode
  · have h : .ok ((lzwEncode (serialize ew xs)).1, some (lzwEncode (serialize ew xs)).2) =
        (.ok (pay, pad) : Except Raised _) := h
    obtain ⟨rfl, rfl⟩ := Prod.mk.inj (Except.ok.inj h)
    exact ⟨_, padCount_le _, rfl, hxs, nofun, nofun, nofun, fun _ => lzwRoundTrip _⟩

end

theorem unstageMtf_on {amax mn mx : Nat} {xs : List Nat} (hle : mn ≤ mx) (hfits : mx - mn + 1 ≤ amax) :
    unstageMtf true amax mn mx xs = mtfDecode xs mn mx := by
  have hcheck : (decide (mx < mn) || decide (amax < mx - mn + 1)) = false := by simp; omega
  rw [unstageMtf, if_pos rfl, check_bind, hcheck]
  rfl

theorem unstageMtf_alphabet {amax mn mx : Nat} (xs : List Nat) (h : mx < mn ∨ amax < mx - mn + 1) :
    unstageMtf true amax mn mx xs = .error ⟨.eMtfAlphabet, mx⟩ := by
  have hcheck : (decide (mx < mn) || decide (amax < mx - mn + 1)) = true := by simpa using h
  rw [unstageMtf, if_pos rfl, check_bind, hcheck]
  rfl

theorem unstageBwt_ok {bwt : Bool} {p : Nat} {ts xs : List Nat}
    (hon : bwt = true → bwtForward xs = (ts, p) ∨ (ConstantBlock ts ∧ xs = ts)) (hoff : bwt = false → xs = ts) :
    unstageBwt bwt p ts = .ok xs := by
  cases bwt with
  | false => rw [hoff rfl]; rfl
  | true =>
    rw [unstageBwt, if_pos rfl]
    obtain hforward | ⟨hconst, rfl⟩ := hon rfl
    · have hround := bwtInverse_bwtForward xs
      rwa [hforward] at hround
    · exact bwtInverse_of_constant hconst p

end Sys2Proof.Machine


/-! PROOFS. Expanding a block (49_block_container.md R360 to R362): the header's fields in memory, the faults of a corrupt
block in their order, and a compressed block given back. -/

namespace Sys2Proof.Machine

/-! ### The block header in memory (R352) -/

section
variable {bwt mtf : Bool} {codec : BitVec 3} {c : Codec} (hc : codecOf codec = some c) {ew hsize pre : Nat}
  (hpre : pre = if codec = 2 ∨ codec = 5 then 5 else 4)
  (hhsize : hsize = pre + (if mtf then 2 * ew else 0) + (if bwt then 4 else 0))
include hc hpre

theorem headerStart_eq : pre = 4 + (if codecPads c then 1 else 0) := by
  rw [hpre]
  simp only [codecPads_iff hc]
  split_ifs <;> rfl

include hhsize

theorem blockHeaderSize_eq : blockHeaderSize bwt mtf c ew = hsize := by
  rw [blockHeaderSize, hhsize, headerStart_eq hc hpre]

variable {s : State} (hlen : hsize ≤ s.len.toNat)
include hlen

theorem blockFields_complen : (blockFields bwt mtf c ew s.inBytes).complen = leValue (s.readBytes s.pa.toNat 4) := by
  have hfour : 0 + 4 ≤ s.len.toNat := by
    have := headerStart_eq hc hpre
    omega
  have hread := s.take_drop_readBytes s.pa.toNat hfour
  rw [List.drop_zero] at hread
  exact congrArg leValue hread

theorem blockFields_pad (hpads : codecPads c = true) :
    (blockFields bwt mtf c ew s.inBytes).pad = (s.readByte (s.pa.toNat + 4)).toNat := by
  have hstart := headerStart_eq hc hpre
  rw [if_pos hpads] at hstart
  have hread := s.take_drop_readBytes s.pa.toNat (show 4 + 1 ≤ s.len.toNat by omega)
  simp only [blockFields, hpads, if_true, State.inBytes, hread, State.readBytes, leValue]
  omega

theorem blockFields_range (hmtf : mtf = true) :
    (blockFields bwt mtf c ew s.inBytes).mn = leValue (s.readBytes (s.pa.toNat + pre) ew)
      ∧ (blockFields bwt mtf c ew s.inBytes).mx = leValue (s.readBytes (s.pa.toNat + pre + ew) ew) := by
  have hstart := headerStart_eq hc hpre
  rw [if_pos hmtf] at hhsize
  simp only [blockFields, hmtf, if_true, State.inBytes, ← hstart]
  rw [s.take_drop_readBytes _ (by omega), s.take_drop_readBytes _ (by omega), Nat.add_assoc]
  exact ⟨rfl, rfl⟩

theorem blockFields_index (hbwt : bwt = true) :
    (blockFields bwt mtf c ew s.inBytes).p = leValue (s.readBytes (s.pa.toNat + hsize - 4) 4) := by
  have hstart := headerStart_eq hc hpre
  rw [if_pos hbwt] at hhsize
  have hsize : pre + 2 * (if mtf then ew else 0) = hsize - 4 := by
    rw [hhsize]
    split_ifs <;> omega
  simp only [blockFields, hbwt, if_true, State.inBytes, ← hstart]
  rw [hsize, s.take_drop_readBytes _ (by omega), Nat.add_sub_assoc (by omega)]

end

/-! ### Corrupt blocks and good ones (R360) -/

section
variable {s : State} {bwt mtf : Bool} {codec : BitVec 3} {c : Codec} {hsize pre : Nat} (hc : codecOf codec = some c)
  (hpre : pre = if codec = 2 ∨ codec = 5 then 5 else 4)
  (hhsize : hsize = pre + (if mtf then 2 * s.ew.toNat else 0) + (if bwt then 4 else 0))
include hc hpre hhsize

/-- `BLKD` on a block that is there expands its payload. -/
theorem exec_blkd_payload {pay : List Byte} {pad mn mx p : Nat}
    (hpay : pay = s.readBytes (s.pa.toNat + hsize) (leValue (s.readBytes s.pa.toNat 4)))
    (hfits : hsize + pay.length ≤ s.len.toNat)
    (hpad : codec = 2 ∨ codec = 5 → pad = (s.readByte (s.pa.toNat + 4)).toNat)
    (hmtf : mtf = true → mn = leValue (s.readBytes (s.pa.toNat + pre) s.ew.toNat)
      ∧ mx = leValue (s.readBytes (s.pa.toNat + pre + s.ew.toNat) s.ew.toNat))
    (hbwt : bwt = true → p = leValue (s.readBytes (s.pa.toNat + hsize - 4) 4)) :
    exec (.blkd bwt mtf codec) s = s.finishBulk (s.typedChecks s.len.toNat) (fun _ =>
      expandPayload bwt mtf c s.cfg.mtfAmax s.cfg.hufMaxlen s.ew.toNat hsize pay pad mn mx p) := by
  have hlen : hsize ≤ s.len.toNat := by omega
  have hin : s.inBytes.length = s.len.toNat := s.length_readBytes _ _
  have hpaylen : pay.length = leValue (s.readBytes s.pa.toNat 4) := by rw [hpay, State.length_readBytes]
  have hcomplen := blockFields_complen hc hpre hhsize hlen
  have hsize := blockHeaderSize_eq hc hpre hhsize
  have hexpand := blockExpand_payload (bwt := bwt) (mtf := mtf) (c := c) (amax := s.cfg.mtfAmax)
    (maxlen := s.cfg.hufMaxlen) (ew := s.ew.toNat) (b := s.inBytes) (by rw [hsize, hcomplen, hin, ← hpaylen]; exact hfits)
  rw [hsize, hcomplen, State.inBytes, s.take_drop_readBytes _ (by rw [← hpaylen]; exact hfits), ← hpay] at hexpand
  rw [exec_blkd hc, State.inBytes, hexpand]
  congr 1
  funext _
  refine expandPayload_congr (fun hpads => ?_) (fun hon => ?_) fun hon => ?_
  · rw [hpad ((codecPads_iff hc).mp hpads)]
    exact blockFields_pad hc hpre hhsize hlen hpads
  · obtain ⟨hmn, hmx⟩ := hmtf hon
    rw [hmn, hmx]
    exact blockFields_range hc hpre hhsize hlen hon
  · rw [hbwt hon]
    exact blockFields_index hc hpre hhsize hlen hon

end

/-! ### A compressed block expanded (R362) -/

/-- What the MTF stage gives, and that its backward stage gives the elements back. -/
theorem stageMtf_inv {mtf : Bool} {amax ew : Nat} (hamax : 1 ≤ amax) {s1 s2 : List Nat} {range : Option (Nat × Nat)}
    (hs1 : ∀ x ∈ s1, x < 256 ^ ew) (h : stageMtf mtf amax s1 = .ok (s2, range)) :
    ∃ mn mx, range = (if mtf then some (mn, mx) else none) ∧ mn < 256 ^ ew ∧ mx < 256 ^ ew
      ∧ (∀ x ∈ s2, x < 256 ^ ew) ∧ unstageMtf mtf amax mn mx s2 = .ok s1 := by
  have hpos : 0 < 256 ^ ew := Nat.pow_pos (by decide)
  cases mtf with
  | false =>
    obtain ⟨rfl, rfl⟩ := Prod.mk.inj (Except.ok.inj h)
    exact ⟨0, 0, rfl, hpos, hpos, hs1, rfl⟩
  | true =>
    have hfits : s1 ≠ [] → blockMax s1 - blockMin s1 + 1 ≤ amax := fun hne => by
      by_contra hbig
      rw [stageMtf_error hne (Nat.lt_of_not_le hbig)] at h
      cases h
    have hencode := mtfEncode_ok hfits
    rw [stageMtf_ok fun _ => hfits] at h
    obtain ⟨rfl, rfl⟩ := Prod.mk.inj (Except.ok.inj h)
    obtain ⟨hdecode, hrange⟩ := mtfRoundTrip.1 amax s1 _ _ _ hamax hencode
    have hwidth : ∀ x ∈ s1, x < 2 ^ (8 * ew) := fun x hx => by
      rw [Nat.pow_mul]
      exact hs1 x hx
    obtain ⟨hle, hmx, hamax'⟩ := mtfRangeCheck_ok.mp (hrange ew hwidth)
    rw [Nat.pow_mul] at hmx
    have hmx : blockMax s1 < 256 ^ ew := hmx
    refine ⟨blockMin s1, blockMax s1, rfl, by omega, hmx, fun x hx => ?_, ?_⟩
    · have hcode := mtfEncodeLoop_lt mem_alphabet_block x hx
      rw [length_alphabet] at hcode
      omega
    · rw [unstageMtf_on hle hamax']
      exact hdecode

/-- Consecutive parts of a byte sequence are found by their lengths. -/
theorem take_drop_append {α : Type} (a b r : List α) {k n : Nat} (hk : a.length = k) (hn : b.length = n) :
    ((a ++ (b ++ r)).drop k).take n = b := by
  rw [List.drop_left' hk, List.take_left' hn]

/-- The six parts of a block, whatever follows them, are found by their lengths. -/
theorem take_drop_six {α : Type} {w a b m m' q y : List α} (r : List α) {kb km kq : Nat}
    (hw : w = a ++ (b ++ (m ++ (m' ++ (q ++ y))))) (ha : a.length = 4) (hb : b.length = kb) (hm : m.length = km)
    (hm' : m'.length = km) (hq : q.length = kq) :
    (w ++ r).take 4 = a ∧ ((w ++ r).drop 4).take kb = b ∧ ((w ++ r).drop (4 + kb)).take km = m
      ∧ ((w ++ r).drop (4 + kb + km)).take km = m' ∧ ((w ++ r).drop (4 + kb + 2 * km)).take kq = q
      ∧ ((w ++ r).drop (4 + kb + 2 * km + kq)).take y.length = y := by
  have hpart : ∀ pre part post : List α, w ++ r = pre ++ (part ++ post) → ∀ k, pre.length = k →
      ∀ n, part.length = n → ((w ++ r).drop k).take n = part := fun pre part post h k hk n hn => by
    rw [h]
    exact take_drop_append pre part post hk hn
  refine ⟨hpart [] a (b ++ (m ++ (m' ++ (q ++ (y ++ r))))) ?_ 0 rfl 4 ha,
    hpart a b (m ++ (m' ++ (q ++ (y ++ r)))) ?_ _ ha _ hb,
    hpart (a ++ b) m (m' ++ (q ++ (y ++ r))) ?_ _ ?_ _ hm, hpart (a ++ b ++ m) m' (q ++ (y ++ r)) ?_ _ ?_ _ hm',
    hpart (a ++ b ++ m ++ m') q (y ++ r) ?_ _ ?_ _ hq, hpart (a ++ b ++ m ++ m' ++ q) y r ?_ _ ?_ _ rfl⟩
  all_goals simp only [hw, List.append_assoc, List.nil_append, List.length_append, ha, hb, hm, hm', hq]
  all_goals omega

/-- The parts of a block (R352): the payload's length, the padding count, the two bounds, the index, the payload. -/
structure BlockParts (bwt mtf : Bool) (c : Codec) (ew : Nat) (b : List Byte) (pay : List Byte) (pad mn mx p : Nat) :
    Prop where
  /-- They follow each other. -/
  bytes : b = leBytes 4 pay.length ++ ((if codecPads c then [BitVec.ofNat 8 pad] else [])
    ++ ((if mtf then leBytes ew mn else []) ++ ((if mtf then leBytes ew mx else [])
      ++ ((if bwt then leBytes 4 p else []) ++ pay))))
  /-- The length fits its field. -/
  pay_le : pay.length ≤ blockFieldMax
  /-- The padding count fits its field. -/
  pad_le : pad ≤ 7
  /-- The bounds fit their fields. -/
  mn_lt : mn < 256 ^ ew
  /-- See `mn_lt`. -/
  mx_lt : mx < 256 ^ ew
  /-- The index fits its field. -/
  p_le : p ≤ blockFieldMax

theorem leValue_leBytes_four {n : Nat} (h : n ≤ blockFieldMax) : leValue (leBytes 4 n) = n := by
  rw [leValue_leBytes]
  exact Nat.mod_eq_of_lt (Nat.lt_succ_of_le h)

section
variable {bwt mtf : Bool} {c : Codec} {ew : Nat} {b pay : List Byte} {pad mn mx p : Nat}
  (h : BlockParts bwt mtf c ew b pay pad mn mx p) (rest : List Byte)
include h

/-- The fields read back from a block, whatever follows it. -/
theorem BlockParts.fields : (blockFields bwt mtf c ew (b ++ rest)).complen = pay.length
    ∧ (codecPads c = true → (blockFields bwt mtf c ew (b ++ rest)).pad = pad)
    ∧ (mtf = true → (blockFields bwt mtf c ew (b ++ rest)).mn = mn ∧ (blockFields bwt mtf c ew (b ++ rest)).mx = mx)
    ∧ (bwt = true → (blockFields bwt mtf c ew (b ++ rest)).p = p)
    ∧ ((b ++ rest).drop (blockHeaderSize bwt mtf c ew)).take pay.length = pay
    ∧ b.length = blockHeaderSize bwt mtf c ew + pay.length := by
  obtain ⟨hbytes, hpay, hpad, hmn, hmx, hp⟩ := h
  have hlenPad : (if codecPads c then [BitVec.ofNat 8 pad] else []).length = if codecPads c then 1 else 0 := by
    split_ifs <;> rfl
  have hlenMn : (if mtf then leBytes ew mn else []).length = if mtf then ew else 0 := by
    split_ifs <;> simp
  have hlenMx : (if mtf then leBytes ew mx else []).length = if mtf then ew else 0 := by
    split_ifs <;> simp
  have hlenP : (if bwt then leBytes 4 p else []).length = if bwt then 4 else 0 := by
    split_ifs <;> simp
  have hhsize : blockHeaderSize bwt mtf c ew =
      4 + (if codecPads c then 1 else 0) + 2 * (if mtf then ew else 0) + if bwt then 4 else 0 := by
    rw [blockHeaderSize]
    split_ifs <;> rfl
  have hlen : b.length = blockHeaderSize bwt mtf c ew + pay.length := by
    rw [hbytes, hhsize]
    simp only [List.length_append, length_leBytes, hlenPad, hlenMn, hlenMx, hlenP]
    omega
  obtain ⟨htake, hpads, hmins, hmaxs, hindex, htail⟩ :=
    take_drop_six rest hbytes (length_leBytes _ _) hlenPad hlenMn hlenMx hlenP
  have hvalue : ∀ {n v : Nat}, v < 256 ^ n → leValue (leBytes n v) = v := fun hv => by
    rw [leValue_leBytes, Nat.mod_eq_of_lt hv]
  refine ⟨?_, fun hon => ?_, fun hon => ⟨?_, ?_⟩, fun hon => ?_, hhsize ▸ htail, hlen⟩
  · exact (congrArg leValue htake).trans (leValue_leBytes_four hpay)
  · refine (congrArg leValue hpads).trans ?_
    rw [if_pos hon, leValue, leValue, BitVec.toNat_ofNat]
    omega
  · refine (congrArg leValue hmins).trans ?_
    rw [if_pos hon, hvalue hmn]
  · refine (congrArg leValue hmaxs).trans ?_
    rw [if_pos hon, hvalue hmx]
  · refine (congrArg leValue hindex).trans ?_
    rw [if_pos hon, leValue_leBytes_four hp]

end

/-- The index of a transform is not above the length of its block. -/
theorem bwtForward_index_le (xs : List Nat) : (bwtForward xs).2 ≤ xs.length := by
  by_cases hconst : ConstantBlock xs
  · rw [bwtForward_of_constant hconst]
    exact Nat.zero_le _
  · obtain ⟨ts, hforward, -, -, -, hlt⟩ := bwtForward_spec (rowsSorted_sortedRows xs) hconst
    rw [hforward]
    exact hlt.le

/-- What the BWT stage gives, and that its backward stage gives the elements back. -/
theorem stageBwt_inv (bwt : Bool) (xs : List Nat) : ∃ p ≤ xs.length, (stageBwt bwt xs).2 = (if bwt then some p else none)
    ∧ (stageBwt bwt xs).1.Perm xs ∧ unstageBwt bwt p (stageBwt bwt xs).1 = .ok xs := by
  cases bwt with
  | false => exact ⟨0, Nat.zero_le _, rfl, .refl _, rfl⟩
  | true => exact ⟨(bwtForward xs).2, bwtForward_index_le xs, rfl, bwtForward_perm xs, bwtInverse_bwtForward xs⟩

section
variable {bwt mtf : Bool} {codec : BitVec 3} {c : Codec} (hc : codecOf codec = some c) {amax maxlen ew : Nat}
  (hamax : 1 ≤ amax) (hew : 0 < ew) {xs : List Nat} (hxs : ∀ x ∈ xs, x < 256 ^ ew) {b : BulkResult}
  (h : blockCompress bwt mtf c amax maxlen ew xs = .ok b)
include hc hamax hew hxs h

/-- A compressed block is made of parts from which the stages backwards give the elements. -/
theorem blockParts_of_blockCompress : ∃ s1 s2 pay pad mn mx p, BlockParts bwt mtf c ew b.out pay pad mn mx p
    ∧ unstageCodec c maxlen ew pay pad = .ok s2 ∧ unstageMtf mtf amax mn mx s2 = .ok s1
    ∧ unstageBwt bwt p s1 = .ok xs
    ∧ b = { out := b.out
            used := none
            pidx := if bwt then some p else none
            vmin := if mtf then some mn else none
            vmax := if mtf then some mx else none
            padb := if codecPads c then some pad else none } := by
  obtain ⟨s2, range, pay, pad, hlen, hmtf, hcodec, hpay, hb⟩ := blockCompress_inv h
  obtain ⟨p, hp, hindex, hperm, hunbwt⟩ := stageBwt_inv bwt xs
  obtain ⟨mn, mx, rfl, hmn, hmx, hs2, hunmtf⟩ := stageMtf_inv hamax (fun x hx => hxs x (hperm.mem_iff.mp hx)) hmtf
  obtain ⟨n, hn, rfl, hholds⟩ := payloadHolds_of_stageCodec hc hs2 hcodec
  rw [hindex, blockHeader_eq] at hb
  refine ⟨_, s2, pay, n, mn, mx, p, ⟨?_, hpay, hn, hmn, hmx, ?_⟩, unstageCodec_ok hc hew hholds, hunmtf, hunbwt, ?_⟩
  · have hrange : (if mtf then leBytes ew mn ++ leBytes ew mx else []) =
        (if mtf then leBytes ew mn else []) ++ (if mtf then leBytes ew mx else []) := by
      split_ifs <;> rfl
    simp only [hb, hrange, List.append_assoc]
  · exact (hp.trans (Nat.le_mul_of_pos_right _ hew)).trans hlen
  · rw [hb]
    cases mtf <;> rfl

/-- A compressed block, whatever follows it, expands to the elements (R362). -/
theorem blockExpand_blockCompress (rest : List Byte) : blockExpand bwt mtf c amax maxlen ew (b.out ++ rest) =
    .ok { b with out := serialize ew xs, used := some b.out.length } := by
  obtain ⟨s1, s2, pay, pad, mn, mx, p, hparts, h1, h2, h3, hb⟩ := blockParts_of_blockCompress hc hamax hew hxs h
  obtain ⟨hcomplen, hpads, hrange, hindex, htail, hlen⟩ := hparts.fields rest
  rw [blockExpand_payload (by rw [hcomplen, List.length_append, hlen]; exact Nat.le_add_right _ _), hcomplen, htail,
    expandPayload_congr hpads hrange hindex, expandPayload_ok h1 h2 h3, hb, ← hlen]

end

/-! ### The commands -/

theorem State.EwLegal.pos {s : State} (h : s.EwLegal) : 0 < s.ew.toNat := by
  obtain h | h | h := h <;> omega

/-- `BLKC` completes with a compressed block; a reserved codec is a fault. -/
theorem exec_blkc_completed {s t : State} {bwt mtf : Bool} {codec : BitVec 3} (h : exec (.blkc bwt mtf codec) s = .next t)
    (herr : t.err = false) : ∃ c b, codecOf codec = some c
      ∧ blockCompress bwt mtf c s.cfg.mtfAmax s.cfg.hufMaxlen s.ew.toNat s.inElems = .ok b
      ∧ b.out.length ≤ s.cap.toNat ∧ t = s.complete b := by
  cases hc : codecOf codec with
  | none =>
    simp only [exec, execBlkc, hc] at h
    obtain rfl := Host.Outcome.next.inj h
    cases herr
  | some c =>
    rw [exec_blkc hc] at h
    obtain ⟨-, b, hb, hfits, ht⟩ := State.finishBulk_completed h herr
    exact ⟨c, b, rfl, hb, hfits, ht⟩

section
variable {s : State} {bwt mtf : Bool} {codec : BitVec 3} {c : Codec} (hc : codecOf codec = some c) (hwf : s.cfg.wf)
  (hready : s.TypedReady s.len.toNat)
include hc hwf hready

/-- `BLKD` at a compressed block, whatever follows it. -/
theorem exec_blkd_compressed {xs : List Nat} {b : BulkResult} (hxs : ∀ x ∈ xs, x < 256 ^ s.ew.toNat)
    (h : blockCompress bwt mtf c s.cfg.mtfAmax s.cfg.hufMaxlen s.ew.toNat xs = .ok b) (hlen : b.out.length ≤ s.len.toNat)
    (hbytes : s.readBytes s.pa.toNat b.out.length = b.out) :
    (xs.length * s.ew.toNat ≤ s.cap.toNat → ∃ t, exec (.blkd bwt mtf codec) s = .next t
        ∧ Delivered s t { b with out := serialize s.ew.toNat xs, used := some b.out.length })
      ∧ (s.cap.toNat < xs.length * s.ew.toNat → ∃ t, exec (.blkd bwt mtf codec) s = .next t
        ∧ TrappedLosingOutput s t ⟨.eCap, xs.length * s.ew.toNat⟩) := by
  obtain ⟨rest, hrest⟩ : ∃ rest, s.inBytes = b.out ++ rest := by
    obtain ⟨n, hn⟩ := Nat.exists_eq_add_of_le hlen
    exact ⟨_, by rw [State.inBytes, hn, s.readBytes_add, hbytes]⟩
  obtain ⟨-, -, hamax, -⟩ := hwf
  have hexpand := blockExpand_blockCompress hc hamax hready.1.pos hxs h rest
  rw [← hrest] at hexpand
  have hdelivers := State.deliversOrCap (exec_blkd hc) (State.typedChecks_ok.mpr hready) hexpand
  rwa [length_serialize] at hdelivers

end

/-- Settles O59. -/
theorem blkdDelivers : Obligations.BlkdDelivers := by
  unfold Obligations.BlkdDelivers
  intro s bwt mtf codec c hsize pre hc hwf hready hpre hhsize
  have hchecks : s.typedChecks s.len.toNat = .ok () := State.typedChecks_ok.mpr hready
  have hheader : blockHeaderSize bwt mtf c s.ew.toNat = hsize := blockHeaderSize_eq hc hpre hhsize
  have hin : s.inBytes.length = s.len.toNat := s.length_readBytes _ _
  refine ⟨fun hshort => ?_, fun hlen hcut => ?_, fun pay pad mn mx p hpay hfits hpad hmtf hbwt => ?_,
    fun xs b => exec_blkd_compressed hc hwf hready⟩
  · have hexpand := blockExpand_short (bwt := bwt) (mtf := mtf) (c := c) (amax := s.cfg.mtfAmax)
      (maxlen := s.cfg.hufMaxlen) (ew := s.ew.toNat) (b := s.inBytes) (by rwa [hheader, hin])
    rw [hheader] at hexpand
    exact State.raises (exec_blkd hc) hchecks hexpand
  · have hcomplen := blockFields_complen hc hpre hhsize hlen
    have hexpand := blockExpand_cut (bwt := bwt) (mtf := mtf) (c := c) (amax := s.cfg.mtfAmax)
      (maxlen := s.cfg.hufMaxlen) (ew := s.ew.toNat) (b := s.inBytes) (by rwa [hheader, hin])
      (by rwa [hheader, hcomplen, hin])
    rw [hheader, hcomplen] at hexpand
    exact State.raises (exec_blkd hc) hchecks hexpand
  · have hexec := exec_blkd_payload hc hpre hhsize hpay hfits hpad hmtf hbwt
    refine ⟨fun e he => State.raises hexec hchecks (expandPayload_codec_error (unstageCodec_error hc he)),
      fun bytes hcodec hmod =>
        State.raises hexec hchecks (expandPayload_codec_error (unstageCodec_align hc hcodec hmod)),
      fun s1 hholds => ?_⟩
    have h1 := unstageCodec_ok hc hready.1.pos hholds
    refine ⟨fun hon hbad => ?_, fun k r hon hle hamax hk hr hfirst => ?_, fun s2 hon hoff => ?_⟩
    · subst hon
      exact State.raises hexec hchecks (expandPayload_mtf_error h1 (unstageMtf_alphabet s1 hbad))
    · subst hon
      have hrank : mtfDecode s1 mn mx = .error ⟨.eMtfRank, k⟩ := by
        have hloop := mtfDecodeLoop_error (list := alphabet mn mx) hk hr hfirst 0
        rwa [Nat.zero_add] at hloop
      exact State.raises hexec hchecks (expandPayload_mtf_error h1 ((unstageMtf_on hle hamax).trans hrank))
    · have h2 : unstageMtf mtf s.cfg.mtfAmax mn mx s1 = .ok s2 := by
        cases mtf with
        | false => rw [hoff rfl]; rfl
        | true =>
          obtain ⟨hle, hamax, hdecode⟩ := hon rfl
          exact (unstageMtf_on hle hamax).trans hdecode
      refine ⟨fun hbwton hnot hnone => ?_, fun xs hforward hsame => ?_⟩
      · subst hbwton
        exact State.raises hexec hchecks (expandPayload_bwt_error h1 h2 (bwtInverse_of_no_image hnot hnone))
      · have hexpand := expandPayload_ok (maxlen := s.cfg.hufMaxlen) (hsize := hsize) h1 h2 (unstageBwt_ok hforward hsame)
        simp only [codecPads_iff hc] at hexpand
        have hdelivers := State.deliversOrCap hexec hchecks hexpand
        rwa [length_serialize] at hdelivers

/-- Settles O60: `BLKD` reads the bytes that `BLKC` wrote. -/
theorem blockRoundTrip : Obligations.BlockRoundTrip := by
  unfold Obligations.BlockRoundTrip
  intro bwt mtf codec s t u pb cap hwf herr hexec hterr hu hready hcap
  obtain ⟨c, b, hc, hcompress, hfits, ht⟩ := exec_blkc_completed hexec hterr
  have hsame : SameMemory t u := fun _ => hu ▸ rfl
  have hcfg : u.cfg = s.cfg := by rw [hu, ht]; rfl
  have hew : u.ew = s.ew := by rw [hu, ht]; rfl
  have hpa : u.pa = s.pb := by rw [hu, ht]; rfl
  have hpb : u.pb = pb := by rw [hu]
  have hucap : u.cap = cap := by rw [hu]
  have huerr : u.err = false := by rw [hu]; exact hterr
  have hlen : u.len.toNat = b.out.length := by
    rw [hu, ht]
    exact State.toNat_complete_olen hfits
  have hblock : u.readBytes u.pa.toNat b.out.length = b.out := by
    rw [hpa, hsame.readBytes, ht]
    exact (s.delivered b).readBytes
  have hcount : s.inElems.length = s.len.toNat := s.length_readElems _ _ _
  have hout : serialize s.ew.toNat s.inElems = s.readBytes s.pa.toNat (s.len.toNat * s.ew.toNat) :=
    s.serialize_readElems _ _ _
  have hexpands := exec_blkd_compressed (s := u) (xs := s.inElems) hc (hcfg ▸ hwf) hready
    (by rw [hew]; exact s.readElems_lt _ _ _) (by rw [hcfg, hew]; exact hcompress) hlen.ge hblock
  rw [hew, hcount, hucap, hout] at hexpands
  obtain ⟨v, hv, hdelivered⟩ := hexpands.1 hcap
  have hread := hdelivered.readBytes
  obtain ⟨-, hvolen, hvused, -, -, -, -, hrest⟩ := hdelivered
  simp only [State.length_readBytes] at hvolen hread
  refine ⟨v, hv, (congrArg State.err hrest).trans huerr, ?_, hpb ▸ hread, hvused.trans ?_⟩
  · rw [hvolen, BitVec.toNat_ofNat]
    exact Nat.mod_eq_of_lt (hcap.trans_lt cap.isLt)
  · rw [ht]
    rfl

end Sys2Proof.Machine
